-- ==== Sys2Proof/Word.lean ====
section
/-! DEFINITION. The word type of the block: the byte (R16). Counters and lengths are unsigned numbers (R16, R96),
so they are natural numbers with an explicit wrap (Machine/Operands.lean), not words of a fixed width. -/

namespace Sys2Proof

/-- "A byte is 8 bits and takes the values 0..255" (R16). -/
abbrev Byte := BitVec 8

end Sys2Proof
end

