-- ==== Sys2Proof/Config.lean ====
section
/-! DEFINITION. The parameters of the block (R8 to R15), each an argument of the model, and the free values: what the
collaborators answer where the state scripts no answer, and what `rx` holds after a failed transaction. -/

namespace Sys2Proof

/-- `BIT_ORDER` (R15): the order of the bits of one byte on the wire. An open parameter; no rule reads it (R51). DESIGN CHOICE
(log 4): the spec lists no values for it, and the model admits these two and no other order of the eight bits. -/
inductive BitOrder where
  | msbFirst
  | lsbFirst
deriving DecidableEq, Repr

/-- The configuration parameters, "fixed before reset" (R150). Every default is the one R8 to R14 state; the defaults of
`bitOrder` and `sourceName` are DESIGN CHOICE (log 4): the spec gives none, and no rule reads either value. -/
structure Config where
  /-- `FRAME_SIZE`, written `F` (R8). -/
  frameSize : Nat := 1024
  /-- `CHUNK_CAP`, written `C` (R10). -/
  chunkCap : Nat := frameSize - 3
  /-- `OP_START` (R12). -/
  opStart : Byte := 0x80
  /-- `OP_DATA` (R12). -/
  opData : Byte := 0x81
  /-- `OP_END` (R12). -/
  opEnd : Byte := 0x82
  /-- `ACK_INDEX` (R13). -/
  ackIndex : Nat := 0
  /-- `CNT_W` (R14). -/
  cntW : Nat := 32
  /-- `BIT_ORDER` (R15), read by no rule. -/
  bitOrder : BitOrder := .msbFirst
  /-- `SOURCE_NAME` (R15): never interpreted by the block, only handed to `SrcOpen`. -/
  sourceName : String := "source"
deriving DecidableEq, Repr

/-- The configuration with every parameter at its default. -/
def Config.default : Config := { }

/-- Free value (R22, log 2): the level `ReadySample` sees at the `k`-th draw. -/
opaque Config.freeReady : Nat → Bool

/-- Free value (R22, log 2): the answer of `SrcOpen` at the `k`-th draw, none for `NotFound`. -/
opaque Config.freeOpen : Nat → Option Nat

/-- Free value (R22, log 2): what `SrcRead` answers at the `k`-th draw, none for `ReadError`. -/
opaque Config.freeRead : Nat → Option (List Byte)

/-- Free value (R22, log 2): whether the transaction of the `k`-th draw returns `BusOk`. -/
opaque Config.freeBusOk : Nat → Bool

/-- Free value (R22, R30, log 2, log 3): byte `i` of the `k`-th drawn buffer, a reply or `rx` after a `BusFault`. -/
opaque Config.freeByte : Nat → Nat → Byte

end Sys2Proof
end

