-- ==== Sys2Proof/Machine/Control.lean ====
section
/-! DEFINITION. The named values of the control registers `st`, `ph` and `err` with their encodings (R25, R26, R28), the
reachable control points (R27), and the constraints on the parameters (R11 to R13). -/

namespace Sys2Proof

/-- `st` (R25). The reserved codes 6 and 7 are values too: "a model refuses a state holding them". -/
inductive Session where
  | idle | await | xfer | compl | completed | failed | reserved6 | reserved7
deriving DecidableEq, Repr

/-- `ph` (R26). The reserved codes 5, 6 and 7 are values too. -/
inductive Phase where
  | halt | fetch | wait | issue | close | reserved5 | reserved6 | reserved7
deriving DecidableEq, Repr

/-- `err` (R28): the failure cause. -/
inductive ErrCode where
  | none | notFound | readError | busFault
deriving DecidableEq, Repr

/-- The 3-bit encoding of `st` (R25). -/
def Session.code : Session → BitVec 3
  | .idle => 0 | .await => 1 | .xfer => 2 | .compl => 3
  | .completed => 4 | .failed => 5 | .reserved6 => 6 | .reserved7 => 7

/-- The value of `st` a 3-bit code stands for (R25). -/
def Session.ofCode (c : BitVec 3) : Session :=
  if c = 0 then .idle else if c = 1 then .await else if c = 2 then .xfer else if c = 3 then .compl
  else if c = 4 then .completed else if c = 5 then .failed else if c = 6 then .reserved6 else .reserved7

/-- The 3-bit encoding of `ph` (R26). -/
def Phase.code : Phase → BitVec 3
  | .halt => 0 | .fetch => 1 | .wait => 2 | .issue => 3
  | .close => 4 | .reserved5 => 5 | .reserved6 => 6 | .reserved7 => 7

/-- The value of `ph` a 3-bit code stands for (R26). -/
def Phase.ofCode (c : BitVec 3) : Phase :=
  if c = 0 then .halt else if c = 1 then .fetch else if c = 2 then .wait else if c = 3 then .issue
  else if c = 4 then .close else if c = 5 then .reserved5 else if c = 6 then .reserved6 else .reserved7

/-- The 2-bit encoding of `err` (R28). -/
def ErrCode.code : ErrCode → BitVec 2
  | .none => 0 | .notFound => 1 | .readError => 2 | .busFault => 3

/-- The control-point word `STATUS[5:0] = ph<<3 | st` (R38, R80). -/
def controlWord (st : Session) (ph : Phase) : BitVec 6 :=
  ph.code ++ st.code

/-- The `(st, ph)` pairs "reachable from reset", row by row (R27). -/
def reachablePoints : List (Session × Phase) :=
  [(.idle, .halt), (.await, .wait), (.await, .issue), (.xfer, .fetch), (.xfer, .wait), (.xfer, .issue),
   (.compl, .wait), (.compl, .issue), (.completed, .close), (.failed, .close), (.completed, .halt), (.failed, .halt)]

/-- The constraints on the parameters: `1 <= C <= F - 3` and `C <= 65535` (R11), three distinct opcodes (R12) and
`ACK_INDEX <= F - 1` (R13). "A model must refuse any configuration that breaks these constraints." -/
def Config.valid (c : Config) : Bool :=
  decide (1 ≤ c.chunkCap) && decide (c.chunkCap + 3 ≤ c.frameSize) && decide (c.chunkCap ≤ 65535) &&
  decide (c.opStart ≠ c.opData) && decide (c.opStart ≠ c.opEnd) && decide (c.opData ≠ c.opEnd) &&
  decide (c.ackIndex < c.frameSize)

/-- `BUS_BITS`, "fixed at `8 * F`" (R15). -/
def Config.busBits (c : Config) : Nat :=
  8 * c.frameSize

/-- The precondition of a DATA frame on its chunk: `1 <= n <= C <= F-3` with `n = len(b)` (R66, R90). -/
def chunkOk (c : Config) (b : List Byte) : Bool :=
  decide (1 ≤ b.length) && decide (b.length ≤ c.chunkCap) && decide (c.chunkCap + 3 ≤ c.frameSize)

end Sys2Proof
end

