-- ==== Sys2Proof/Syntax.lean ====
section
/-! DEFINITION. The "instructions" of the block (R3): one constructor per row of the opcode table, that is the three frames
(R68 to R70), the seven Sequencer operations (R101 to R107) and the six Frame Builder operations (R86 to R91). -/

namespace Sys2Proof

/-- One constructor per row of the opcode table, in the table's order. The field `sss` of the rows OP_POLL and OP_CLOSE
(the session state they are selected in) is an operand; a chunk carries its length `n` as the length of the list. -/
inductive Instr where
  /-- START, the handshake frame (R68). -/
  | frameStart
  /-- DATA with its payload, `n = len(chunk)` (R69). -/
  | frameData (chunk : List Byte)
  /-- END (R70). -/
  | frameEnd
  /-- OP_REQUEST (R101). -/
  | opRequest
  /-- OP_POLL in session state `st` (R102). -/
  | opPoll (st : Session)
  /-- OP_XACT_START (R103). -/
  | opXactStart
  /-- OP_FETCH (R104). -/
  | opFetch
  /-- OP_XACT_DATA (R105). -/
  | opXactData
  /-- OP_XACT_END (R106). -/
  | opXactEnd
  /-- OP_CLOSE in session state `st` (R107). -/
  | opClose (st : Session)
  /-- OP_OPEN (R86). -/
  | opOpen
  /-- OP_READ with capacity `n` (R87). -/
  | opRead (n : Nat)
  /-- OP_SRCCLOSE (R88). -/
  | opSrcClose
  /-- OP_BUILD_START (R89). -/
  | opBuildStart
  /-- OP_BUILD_DATA of the chunk `b`, `n = len(b)` (R90). -/
  | opBuildData (b : List Byte)
  /-- OP_BUILD_END (R91). -/
  | opBuildEnd
deriving DecidableEq, Repr

end Sys2Proof
end

