-- ==== Sys2Proof/WellFormed.lean ====
section
/-! DEFINITION. Which instructions the spec admits under a configuration: the length bounds of a DATA frame (R66, R90) and
the session states in which OP_POLL and OP_CLOSE are selected (R27). -/

namespace Sys2Proof

/-- The operands the spec admits. OP_POLL is selected in `AWAIT`, `XFER` and `COMPL`, OP_CLOSE in `COMPLETED` and `FAILED`
(R27, R102, R107); a DATA frame, and OP_BUILD_DATA, need `1 <= n <= C` (R66, R90). OP_READ takes any capacity (R87). -/
def Instr.wellFormed (c : Config) : Instr → Bool
  | .frameData chunk => chunkOk c chunk
  | .opBuildData b => chunkOk c b
  | .opPoll st => decide (st = .await ∨ st = .xfer ∨ st = .compl)
  | .opClose st => decide (st = .completed ∨ st = .failed)
  | .frameStart | .frameEnd | .opRequest | .opXactStart | .opFetch | .opXactData | .opXactEnd
  | .opOpen | .opRead _ | .opSrcClose | .opBuildStart | .opBuildEnd => true

end Sys2Proof
end

