-- ==== Sys2Proof/Decode.lean ====
section
/-! DEFINITION. The two encodings of the opcode table and their decoder: the F-byte frames with `classify` (R64 to R74) and
the 6-bit control-point words (R27, R80); after it the encoder, from the same tables. Frame Builder calls have no encoding
(R80). -/

namespace Sys2Proof

/-- `zeros(n)` (R16). -/
def zeros (n : Nat) : List Byte :=
  List.replicate n 0

/-- `n[15:8]`, the byte at offset 1 of the big-endian length field (R49). -/
def lengthHigh (n : Nat) : Byte :=
  BitVec.ofNat 8 (n / 256)

/-- `n[7:0]`, the byte at offset 2 of the big-endian length field (R49). -/
def lengthLow (n : Nat) : Byte :=
  BitVec.ofNat 8 n

/-- The length field of a frame, `n = fr[1] * 256 + fr[2]` (R49, R72). A frame has at least 4 bytes (R11), so the last
case never arises under a valid configuration. -/
def lengthField : List Byte → Nat
  | _ :: hi :: lo :: _ => hi.toNat * 256 + lo.toNat
  | _ => 0

/-- The header word `hdr = fr[0]<<16 | fr[1]<<8 | fr[2]` (R71). -/
def headerWord : List Byte → BitVec 24
  | op :: hi :: lo :: _ => op.zeroExtend 24 <<< 16 ||| hi.zeroExtend 24 <<< 8 ||| lo.zeroExtend 24
  | _ => 0

/-- The START frame, `[OP_START, 0x00, 0x00] ++ zeros(F - 3)` (R68). -/
def startFrame (c : Config) : List Byte :=
  [c.opStart, 0, 0] ++ zeros (c.frameSize - 3)

/-- The DATA frame of a chunk, `[OP_DATA, n[15:8], n[7:0]] ++ b ++ zeros(F - 3 - n)` (R69). -/
def dataFrame (c : Config) (b : List Byte) : List Byte :=
  [c.opData, lengthHigh b.length, lengthLow b.length] ++ b ++ zeros (c.frameSize - 3 - b.length)

/-- The END frame, `[OP_END, 0x00, 0x00] ++ zeros(F - 3)` (R70). -/
def endFrame (c : Config) : List Byte :=
  [c.opEnd, 0, 0] ++ zeros (c.frameSize - 3)

/-- Why a word is no instruction. The first three are the reasons of `classify` (R72). -/
inductive Reject where
  /-- A reserved opcode byte (R73). -/
  | badOpcode
  /-- START or END with a length, or DATA with a length outside `1..C` (R74). -/
  | badLength
  /-- A nonzero byte after the declared payload (R74). -/
  | nonzeroPadding
  /-- Not `F` bytes: no frame at all (R64). -/
  | badSize
  /-- `(COMPLETED, HALT)` or `(FAILED, HALT)`: no step (R27). -/
  | noStep
  /-- A pair outside R27, the reserved codes among them. -/
  | unreachable
deriving DecidableEq, Repr

/-- What a decoder answers on any word: an instruction, or a rejection by name. -/
inductive Decoded where
  | ok (i : Instr)
  | reject (r : Reject)
deriving DecidableEq, Repr

/-- The checks of `classify` in the spec's order (R72), on the opcode byte, the length field and the bytes from offset 3 on. -/
def classifyFields (c : Config) (op : Byte) (n : Nat) (payload : List Byte) : Decoded :=
  if op ≠ c.opStart ∧ op ≠ c.opData ∧ op ≠ c.opEnd then .reject .badOpcode
  else if (op = c.opStart ∨ op = c.opEnd) ∧ n ≠ 0 then .reject .badLength
  else if op = c.opData ∧ (n = 0 ∨ n > c.chunkCap) then .reject .badLength
  else if (payload.drop n).any (· != 0) then .reject .nonzeroPadding
  else if op = c.opStart then .ok .frameStart
  else if op = c.opEnd then .ok .frameEnd
  else .ok (.frameData (payload.take n))

/-- `classify(fr)` (R72). A string too short for a header is no frame. -/
def classify (c : Config) : List Byte → Decoded
  | op :: hi :: lo :: payload => classifyFields c op (hi.toNat * 256 + lo.toNat) payload
  | _ => .reject .badSize

/-- The frame decoder, total on any bytes: "A frame is exactly `F` bytes" (R64), then `classify` (R72). -/
def decodeFrame (c : Config) (fr : List Byte) : Decoded :=
  if fr.length = c.frameSize then classify c fr else .reject .badSize

/-- The operation a control point selects, row by row (R27). -/
def decodePoint (st : Session) (ph : Phase) : Decoded :=
  match st, ph with
  | .idle, .halt => .ok .opRequest
  | .await, .wait => .ok (.opPoll .await)
  | .await, .issue => .ok .opXactStart
  | .xfer, .fetch => .ok .opFetch
  | .xfer, .wait => .ok (.opPoll .xfer)
  | .xfer, .issue => .ok .opXactData
  | .compl, .wait => .ok (.opPoll .compl)
  | .compl, .issue => .ok .opXactEnd
  | .completed, .close => .ok (.opClose .completed)
  | .failed, .close => .ok (.opClose .failed)
  | .completed, .halt => .reject .noStep
  | .failed, .halt => .reject .noStep
  | _, _ => .reject .unreachable

/-- The control-point decoder, on the 6-bit word `ph<<3 | st` (R80). -/
def decodeControl (w : BitVec 6) : Decoded :=
  decodePoint (Session.ofCode (w.extractLsb' 0 3)) (Phase.ofCode (w.extractLsb' 3 3))

/-- A word of the opcode table: a frame on the bus, or a control point (R80). -/
inductive Encoded where
  | frame (bytes : List Byte)
  | control (w : BitVec 6)
deriving DecidableEq, Repr

/-- The decoder over both encodings. -/
def decode (c : Config) : Encoded → Decoded
  | .frame bytes => decodeFrame c bytes
  | .control w => decodeControl w

/-- The encoder. Frame Builder calls have no encoding: their `match` and `mask` are null (R80). -/
def encode (c : Config) : Instr → Option Encoded
  | .frameStart => some (.frame (startFrame c))
  | .frameData chunk => some (.frame (dataFrame c chunk))
  | .frameEnd => some (.frame (endFrame c))
  | .opRequest => some (.control (controlWord .idle .halt))
  | .opPoll st => some (.control (controlWord st .wait))
  | .opXactStart => some (.control (controlWord .await .issue))
  | .opFetch => some (.control (controlWord .xfer .fetch))
  | .opXactData => some (.control (controlWord .xfer .issue))
  | .opXactEnd => some (.control (controlWord .compl .issue))
  | .opClose st => some (.control (controlWord st .close))
  | .opOpen | .opRead _ | .opSrcClose | .opBuildStart | .opBuildData _ | .opBuildEnd => none

/-- The frame a header word of the table stands for: its three bytes with `hdr[23:16]` at offset 0 (R71), the rest zeros. -/
def tableFrame (c : Config) (w : Nat) : List Byte :=
  [BitVec.ofNat 8 (w / 65536), BitVec.ofNat 8 (w / 256), BitVec.ofNat 8 w] ++ zeros (c.frameSize - 3)

/-- A word as the opcode table numbers it: a 24-bit row is a header word (R71), a row of 6 bits (one byte) a control point
(R80); the Frame Builder rows have no word. -/
def tableEncoded (c : Config) (nbits w : Nat) : Option Encoded :=
  if nbits = 24 then (if w < 2 ^ 24 then some (.frame (tableFrame c w)) else none)
  else if nbits = 6 ∨ nbits = 8 then (if w < 64 then some (.control (BitVec.ofNat 6 w)) else none)
  else none

/-- The instruction the decoder reads from a word of the opcode table, under the default configuration. -/
def decodeTableWord (nbits w : Nat) : Option Instr :=
  match tableEncoded Config.default nbits w with
  | none => none
  | some e =>
    match decode Config.default e with
    | .ok i => some i
    | .reject _ => none

end Sys2Proof
end

