-- ==== Sys2Proof/Machine/State.lean ====
section
/-! DEFINITION. The state of the block as plain data: the registers and buffers of R25 to R37, the observation of R41, and
the model's own fields (the configuration, the environment's pending inputs). Its faults, its refusals and its reset. -/

namespace Sys2Proof.Machine

/-- A frame buffer: the bytes written since reset, by offset, in rising order. An offset that is not listed is unwritten
and "holds no value" (R43), so no listed entry can equal what an unlisted offset reads as. -/
abbrev Memory := List Host.Cell

/-- The two buffers (R45). -/
inductive Space where
  | tx
  | rx
deriving DecidableEq, Repr

/-- Why the block stops with a fault. -/
inductive Fault where
  /-- A buffer byte that nothing has written since reset was read (R43). Raised by `Transact`, by OP_XACT_DATA on `tx` and
  by OP_XACT_START on `rx`. Safe: no run reaches it. -/
  | unwritten (space : Space)
deriving DecidableEq, Repr

/-- Why the block refuses a step. -/
inductive Refusal where
  /-- Raised by an arm of `exec` whose instruction has no meaning yet. No arm is left so. Safe. -/
  | notModelled (mnemonic : String)
  /-- The parameters break R11, R12 or R13. Raised by `step`. Safe. -/
  | badConfig
  /-- The control point is outside R27 (R131). Raised by `step`. Safe. -/
  | unreachablePoint
  /-- An operation or a frame away from its own control point (R100, log 10). Raised by the Sequencer's and the frames' meanings
  when called by hand; `step` never does it. Safe. -/
  | notAtPoint
  /-- OP_BUILD_DATA or a DATA frame whose chunk breaks `1 <= n <= C <= F-3` (R90, log 10). Raised by those two meanings when
  called by hand; `step` never does it. Safe. -/
  | badChunk
  /-- `OpenOk(size)` with `size >= 2^CNT_W` (R132). Raised by `SrcOpen`. Safe where collaborators meet their contract, unsafe
  for one that does not (log 9). -/
  | sizeTooLarge
  /-- `SrcRead(n)` answered with `count > n` or `len(bytes) != count` (R131). Raised by `SrcRead`. Safe and unsafe as above
  (log 9). -/
  | badRead
  /-- `Transact` answered with an `rx` of another length than `F` (R131). Raised by `Transact`. Safe and unsafe as above
  (log 9). -/
  | badReply
deriving DecidableEq, Repr

/-- An answer of `SrcOpen` (R17, R84). -/
inductive OpenAnswer where
  | ok (size : Nat)
  | notFound
deriving DecidableEq, Repr

/-- An answer of `SrcRead(n)` (R17, R84): `(count, bytes)` or `ReadError`. -/
inductive ReadAnswer where
  | chunk (count : Nat) (bytes : List Byte)
  | readError
deriving DecidableEq, Repr

/-- An answer of `Transact` (R17): `(BusOk, rxbytes)` or `BusFault`. -/
inductive BusAnswer where
  | ok (rx : List Byte)
  | fault
deriving DecidableEq, Repr

/-- One interaction with a collaborator: the five primitives of R17 with their arguments and results. -/
inductive Event where
  | ready (sample : Bool)
  | transact (tx : List Byte) (bits : Nat) (answer : BusAnswer)
  | srcOpen (name : String) (answer : OpenAnswer)
  | srcRead (n : Nat) (answer : ReadAnswer)
  | srcClose
deriving DecidableEq, Repr

/-- What the host gives at one step: any of the two events of R21, together if it likes (R134). -/
structure HostInput where
  request : Bool
  reset : Bool
deriving DecidableEq, Repr

/-- The environment, as the inputs it still has to give (log 2). Each list holds the answers of one port in the order the
block will ask for them, as a script does (R78); where a list is empty the answer is a free value, the `draws`-th. -/
structure Env where
  /-- The host's events, one entry a step, oldest first; no entry left means the host gives none. -/
  host : List HostInput
  opens : List OpenAnswer
  /-- "In a `ready` list, the last value repeats forever" (R78). -/
  ready : List Bool
  reads : List ReadAnswer
  bus : List BusAnswer
  /-- The counter the free values are applied to (the model's own field). -/
  draws : Nat
deriving DecidableEq, Repr

/-- The state of the block. `cfg` and `env` are the model's own fields; `trace` is the observation. The rest is R25 to R37. -/
structure State where
  /-- The parameters, fixed while the block runs (R150). -/
  cfg : Config
  /-- `st` (R25). -/
  st : Session
  /-- `ph` (R26). -/
  ph : Phase
  /-- `err` (R28). -/
  err : ErrCode
  /-- `tx[0..F-1]` (R29). -/
  tx : Memory
  /-- `rx[0..F-1]` (R30). -/
  rx : Memory
  /-- `total_size` (R31). -/
  totalSize : Nat
  /-- `bytes_read` (R32). -/
  bytesRead : Nat
  /-- `bytes_sent` (R33). -/
  bytesSent : Nat
  /-- `seq` (R34). -/
  seq : Nat
  /-- `last` (R35). -/
  last : Bool
  /-- `handle_open` (R36). -/
  handleOpen : Bool
  /-- `mismatch` (R37). -/
  mismatch : Bool
  /-- The collaborator interactions since reset, oldest first: the two histories of R41 in their one order (R60). -/
  trace : List Event
  /-- What the environment still has to give. -/
  env : Env
deriving DecidableEq, Repr

/-- An environment that scripts nothing: no host event, and a free value for every answer. -/
def Env.silent : Env :=
  { host := [], opens := [], ready := [], reads := [], bus := [], draws := 0 }

/-- The block right after `RESET` (R42, R145) with parameters `c` in front of an environment `e`. -/
def State.boot (c : Config) (e : Env) : State :=
  { cfg := c, st := .idle, ph := .halt, err := .none, tx := [], rx := [],
    totalSize := 0, bytesRead := 0, bytesSent := 0, seq := 0,
    last := false, handleOpen := false, mismatch := false, trace := [], env := e }

/-- The block right after reset with the default parameters (R42, R147). -/
def State.reset : State :=
  State.boot Config.default Env.silent

end Sys2Proof.Machine
end

