-- ==== Sys2Proof/Machine/Operands.lean ====
section
/-! DEFINITION. The data the operations work on: counters that wrap modulo `2^CNT_W` (R14, R96), and the frame buffers read
by offset and written whole (R45 to R47, R54). -/

namespace Sys2Proof.Machine

/-- `a +W b`, that is `(a + b) mod 2^CNT_W` (R16). -/
def addW (c : Config) (a b : Nat) : Nat :=
  (a + b) % 2 ^ c.cntW

/-- The byte at an offset; none where nothing has written it (R43). -/
def Memory.read : Memory → Nat → Option Byte
  | [], _ => none
  | (k, b) :: rest, a => if k = a then some b else Memory.read rest a

/-- `buf[a] <- v`, one byte, keeping the rising order (R16, R46). -/
def Memory.write : Memory → Nat → Byte → Memory
  | [], a, v => [(a, v)]
  | (k, b) :: rest, a, v =>
    if a < k then (a, v) :: (k, b) :: rest
    else if a = k then (a, v) :: rest
    else (k, b) :: Memory.write rest a v

/-- The cells that hold `bytes` at the offsets from `a` on. -/
def Memory.ofBytesFrom : Nat → List Byte → Memory
  | _, [] => []
  | a, b :: rest => (a, b) :: Memory.ofBytesFrom (a + 1) rest

/-- A buffer all of whose bytes are written in one step, the k-th of `bytes` at offset `k` (R46, R47, R51). -/
def Memory.ofBytes (bytes : List Byte) : Memory :=
  Memory.ofBytesFrom 0 bytes

/-- The `n` bytes from offset `a` on as one unit; none if one of them is unwritten (R43, R46). -/
def Memory.run : Memory → Nat → Nat → Option (List Byte)
  | _, _, 0 => some []
  | [], _, _ + 1 => none
  | (k, b) :: rest, a, n + 1 =>
    if k = a then (Memory.run rest (a + 1) n).map (b :: ·)
    else if k < a then Memory.run rest a (n + 1)
    else none

/-- The canonical form of a buffer: offsets strictly rising. (An unlisted offset holds no value, so no entry can equal it.) -/
def Memory.wf : Memory → Bool
  | [] => true
  | [_] => true
  | (k, _) :: (k', b') :: rest => decide (k < k') && Memory.wf ((k', b') :: rest)

end Sys2Proof.Machine
end

