-- ==== Sys2Proof/Machine/Flags.lean ====
section
/-! DEFINITION. The flags (R35, R37) and the read-out the host sees: `STATUS` and the counters (R38, R39). -/

namespace Sys2Proof.Machine

/-- `last <- (count < C)` (R35): a short read and `Empty` are final. -/
def lastFlag (c : Config) (count : Nat) : Bool :=
  decide (count < c.chunkCap)

/-- `mismatch <- (bytes_sent != total_size)` (R37). -/
def mismatchFlag (sent total : Nat) : Bool :=
  decide (sent ≠ total)

/-- A flag as the 32-bit value of its bit, `zext_32` (R16, R38). -/
def flagWord (b : Bool) : BitVec 32 :=
  (BitVec.ofBool b).zeroExtend 32

/-- `STATUS`, the 32-bit read-only view (R38). Bits 31..11 read as zero. -/
def State.status (s : State) : BitVec 32 :=
  flagWord s.mismatch <<< 10 ||| flagWord s.handleOpen <<< 9 ||| flagWord s.last <<< 8 |||
  s.err.code.zeroExtend 32 <<< 6 ||| s.ph.code.zeroExtend 32 <<< 3 ||| s.st.code.zeroExtend 32

/-- The counters "read as separate `CNT_W`-bit values": `total_size`, `bytes_read`, `bytes_sent`, `seq` (R38, R39). -/
def State.counters (s : State) : Nat × Nat × Nat × Nat :=
  (s.totalSize, s.bytesRead, s.bytesSent, s.seq)

end Sys2Proof.Machine
end

