-- ==== Sys2Proof/Machine/Ops.lean ====
section
/-! DEFINITION. The operations every meaning is written over: `goto`, the failure entry `Fail(code)` and RESET (R17, R135,
R145), the buffers, the observation, and the five collaborator primitives (R17) on the environment's answers. -/

namespace Sys2Proof.Machine

/-- Go on with the result of an operation, or stop where it stopped. -/
def andThen {α β : Type} (o : Host.Outcome α Fault Refusal) (f : α → Host.Outcome β Fault Refusal) :
    Host.Outcome β Fault Refusal :=
  match o with
  | .next a => f a
  | .fault r => .fault r
  | .refused r => .refused r

/-! ### Control -/

/-- Whether the block is at a control point (R24). -/
def State.isAt (s : State) (st : Session) (ph : Phase) : Bool :=
  decide (s.st = st) && decide (s.ph = ph)

/-- `goto (st, ph)` (R17). -/
def State.goto (s : State) (st : Session) (ph : Phase) : State :=
  { s with st := st, ph := ph }

/-- `Fail(code)`, the one failure entry (R135): the cause is recorded, nothing is saved, and control goes to a fixed pair. -/
def State.fail (s : State) (code : ErrCode) : State :=
  if s.handleOpen then { s with err := code, st := .failed, ph := .close }
  else { s with err := code, st := .failed, ph := .halt }

/-- `RESET` (R145): every element at its reset value, no collaborator call. It is the one way out of `FAILED` (R137). The
parameters and the environment are not the block's (R22, R150); the observation starts again with the run (log 6). -/
def State.applyReset (s : State) : State :=
  State.boot s.cfg s.env

/-! ### Buffers and observation -/

/-- Write all `F` bytes of `tx` (R46). -/
def State.storeTx (s : State) (bytes : List Byte) : State :=
  { s with tx := Memory.ofBytes bytes }

/-- Write all `F` bytes of `rx` (R47). -/
def State.storeRx (s : State) (bytes : List Byte) : State :=
  { s with rx := Memory.ofBytes bytes }

/-- Read all `F` bytes of `tx` as one unit; an unwritten byte faults (R43, R46). -/
def readTx (s : State) : Host.Outcome (List Byte) Fault Refusal :=
  match Memory.run s.tx 0 s.cfg.frameSize with
  | some bytes => .next bytes
  | none => .fault (.unwritten .tx)

/-- Read the one byte `rx[i]`; an unwritten byte faults (R43, R47). -/
def readRx (s : State) (i : Nat) : Host.Outcome Byte Fault Refusal :=
  match Memory.read s.rx i with
  | some b => .next b
  | none => .fault (.unwritten .rx)

/-- Add an interaction to the observation (R41, R60). -/
def State.record (s : State) (e : Event) : State :=
  { s with trace := s.trace ++ [e] }

/-! ### Free values -/

/-- The `k`-th drawn buffer of `F` bytes: unspecified bytes (R22, R30). -/
def drawBytes (c : Config) (k : Nat) : List Byte :=
  (List.range c.frameSize).map (Config.freeByte k)

/-- The `k`-th drawn answer of `SrcOpen`, within its contract (R84, R132). -/
def drawOpen (c : Config) (k : Nat) : OpenAnswer :=
  match Config.freeOpen k with
  | none => .notFound
  | some size => .ok (size % 2 ^ c.cntW)

/-- The `k`-th drawn answer of `SrcRead(n)`, within its contract (R84). -/
def drawRead (n k : Nat) : ReadAnswer :=
  match Config.freeRead k with
  | none => .readError
  | some bytes => .chunk (bytes.take n).length (bytes.take n)

/-- The `k`-th drawn answer of `Transact`, within its contract (R17). -/
def drawBus (c : Config) (k : Nat) : BusAnswer :=
  if Config.freeBusOk k then .ok (drawBytes c k) else .fault

/-! ### The contracts (R84, R131, R132) -/

/-- `OpenOk(size)` needs `size < 2^CNT_W` (R132). -/
def OpenAnswer.meets (c : Config) : OpenAnswer → Bool
  | .ok size => decide (size < 2 ^ c.cntW)
  | .notFound => true

/-- `(count, bytes)` needs `count <= n` and `len(bytes) = count` (R84). -/
def ReadAnswer.meets (n : Nat) : ReadAnswer → Bool
  | .chunk count bytes => decide (count ≤ n) && decide (bytes.length = count)
  | .readError => true

/-- `(BusOk, rx)` needs `len(rx) = F` (R17). -/
def BusAnswer.meets (c : Config) : BusAnswer → Bool
  | .ok rx => decide (rx.length = c.frameSize)
  | .fault => true

/-! ### The answers the environment gives next, and what is left of it -/

/-- One free value is used up. -/
def Env.drawn (e : Env) : Env :=
  { e with draws := e.draws + 1 }

/-- What `SrcOpen` answers now: the next scripted answer, else a free value. -/
def openNow (s : State) : OpenAnswer :=
  match s.env.opens with
  | [] => drawOpen s.cfg s.env.draws
  | a :: _ => a

/-- The environment after that answer. -/
def Env.usedOpen (e : Env) : Env :=
  match e.opens with
  | [] => e.drawn
  | _ :: rest => { e with opens := rest }

/-- What `SrcRead(n)` answers now. -/
def readNow (n : Nat) (s : State) : ReadAnswer :=
  match s.env.reads with
  | [] => drawRead n s.env.draws
  | a :: _ => a

/-- The environment after that answer. -/
def Env.usedRead (e : Env) : Env :=
  match e.reads with
  | [] => e.drawn
  | _ :: rest => { e with reads := rest }

/-- What `ReadySample` answers now. -/
def sampleNow (s : State) : Bool :=
  match s.env.ready with
  | [] => Config.freeReady s.env.draws
  | b :: _ => b

/-- The environment after that answer. "In a `ready` list, the last value repeats forever" (R78). -/
def Env.usedReady (e : Env) : Env :=
  match e.ready with
  | [] => e.drawn
  | [_] => e
  | _ :: b :: rest => { e with ready := b :: rest }

/-- What `Transact` answers now. -/
def busNow (s : State) : BusAnswer :=
  match s.env.bus with
  | [] => drawBus s.cfg s.env.draws
  | a :: _ => a

/-- The environment after that answer. -/
def Env.usedBus (e : Env) : Env :=
  match e.bus with
  | [] => e.drawn
  | _ :: rest => { e with bus := rest }

/-! ### The collaborator primitives (R17) -/

/-- `SrcOpen(SOURCE_NAME)`: an answer outside the contract is refused (R132). -/
def srcOpen (s : State) : Host.Outcome (OpenAnswer × State) Fault Refusal :=
  if (openNow s).meets s.cfg then
    .next (openNow s, { s with env := s.env.usedOpen }.record (.srcOpen s.cfg.sourceName (openNow s)))
  else .refused .sizeTooLarge

/-- `SrcRead(n)`: an answer outside the contract is refused (R131). -/
def srcRead (n : Nat) (s : State) : Host.Outcome (ReadAnswer × State) Fault Refusal :=
  if (readNow n s).meets n then
    .next (readNow n s, { s with env := s.env.usedRead }.record (.srcRead n (readNow n s)))
  else .refused .badRead

/-- `SrcClose()`: it "always completes" (R84). -/
def srcClose (s : State) : State :=
  s.record .srcClose

/-- `ReadySample()` (R17): "purely read-only" (R56), so the state changes only in what the environment still has to give. -/
def readySample (s : State) : Bool × State :=
  (sampleNow s, { s with env := s.env.usedReady }.record (.ready (sampleNow s)))

/-- What the transaction leaves in `rx`: the reply, or after a `BusFault` a fresh draw (R30). -/
def State.receive (s : State) : BusAnswer → State
  | .ok rb => s.storeRx rb
  | .fault => { s with env := s.env.drawn }.storeRx (drawBytes s.cfg s.env.draws)

/-- `Transact(tx[0..F-1], BUS_BITS)` with its effect on `rx` (R17, R30, R55): it answers the bytes sent, the result and the
state. An unwritten byte of `tx` faults (R43); a reply outside the contract is refused (R131). -/
def transact (s : State) : Host.Outcome (List Byte × BusAnswer × State) Fault Refusal :=
  andThen (readTx s) fun bytes =>
    if (busNow s).meets s.cfg then
      .next (bytes, busNow s,
        ({ s with env := s.env.usedBus }.record (.transact bytes s.cfg.busBits (busNow s))).receive (busNow s))
    else .refused .badReply

end Sys2Proof.Machine
end

