-- ==== Sys2Proof/Machine/Builder.lean ====
section
/-! DEFINITION. The Frame Builder (R82 to R91): the stream operations OP_OPEN, OP_READ and OP_SRCCLOSE, and the frame
formatters OP_BUILD_START, OP_BUILD_DATA and OP_BUILD_END. Each runs inside the Sequencer step that calls it (R83) and
hands its discriminated result to it; its own meaning is the state after the call. -/

namespace Sys2Proof.Machine

/-- The result of OP_OPEN (R86). -/
inductive OpenResult where
  | ok
  | notFound
deriving DecidableEq, Repr

/-- The result of OP_READ (R87). -/
inductive ReadResult where
  | data (b : List Byte)
  | empty
  | readError
deriving DecidableEq, Repr

/-- `OP_OPEN()` with the result it returns (R86). -/
def opOpen (s : State) : Host.Outcome (OpenResult × State) Fault Refusal :=
  andThen (srcOpen s) fun r =>
    match r.1 with
    | .notFound => .next (.notFound, r.2)
    | .ok size => .next (.ok, { r.2 with totalSize := size % 2 ^ s.cfg.cntW, bytesRead := 0 })

/-- `OP_READ(n)` with the result it returns (R87). -/
def opRead (n : Nat) (s : State) : Host.Outcome (ReadResult × State) Fault Refusal :=
  andThen (srcRead n s) fun r =>
    match r.1 with
    | .readError => .next (.readError, r.2)
    | .chunk count b =>
      let s' := { r.2 with bytesRead := addW s.cfg s.bytesRead count }
      .next (if count = 0 then .empty else .data b, s')

/-- `OP_SRCCLOSE()` (R88). -/
def opSrcClose (s : State) : State :=
  srcClose s

/-- `OP_BUILD_START()`: all of `tx` becomes the START frame (R68, R89). -/
def buildStart (s : State) : State :=
  s.storeTx (startFrame s.cfg)

/-- `OP_BUILD_DATA(b, n)`: all of `tx` becomes the DATA frame of the chunk (R69, R90). -/
def buildData (b : List Byte) (s : State) : State :=
  s.storeTx (dataFrame s.cfg b)

/-- `OP_BUILD_END()`: all of `tx` becomes the END frame (R70, R91). -/
def buildEnd (s : State) : State :=
  s.storeTx (endFrame s.cfg)

/-! ### The pseudocode of the formatters, byte by byte

The loops of R89 to R91 as they stand there. They are what the whole-buffer writes above are compared with. -/

/-- `for i in a .. a+n-1: tx[i] <- 0x00`. -/
def zeroLoop (m : Memory) (a n : Nat) : Memory :=
  (List.range n).foldl (fun m i => Memory.write m (a + i) 0) m

/-- `for j in 0 .. n-1: tx[a+j] <- b[j]`. -/
def copyLoop : Memory → Nat → List Byte → Memory
  | m, _, [] => m
  | m, a, b :: rest => copyLoop (Memory.write m a b) (a + 1) rest

/-- The loop of R89. -/
def buildStartLoop (c : Config) (tx : Memory) : Memory :=
  Memory.write (zeroLoop tx 0 c.frameSize) 0 c.opStart

/-- The loops of R90. -/
def buildDataLoop (c : Config) (b : List Byte) (tx : Memory) : Memory :=
  let tx := Memory.write tx 0 c.opData
  let tx := Memory.write tx 1 (lengthHigh b.length)
  let tx := Memory.write tx 2 (lengthLow b.length)
  let tx := copyLoop tx 3 b
  zeroLoop tx (3 + b.length) (c.frameSize - (3 + b.length))

/-- The loop of R91. -/
def buildEndLoop (c : Config) (tx : Memory) : Memory :=
  Memory.write (zeroLoop tx 0 c.frameSize) 0 c.opEnd

/-! ### The meanings -/

/-- OP_OPEN (R86): the state after the call, whichever result it returns. -/
def execOpOpen (s : State) : Host.Outcome State Fault Refusal :=
  andThen (opOpen s) fun r => .next r.2

/-- OP_READ (R87): the state after the call, whichever result it returns. -/
def execOpRead (n : Nat) (s : State) : Host.Outcome State Fault Refusal :=
  andThen (opRead n s) fun r => .next r.2

/-- OP_SRCCLOSE (R88). -/
def execOpSrcClose (s : State) : Host.Outcome State Fault Refusal :=
  .next (opSrcClose s)

/-- OP_BUILD_START (R89). -/
def execOpBuildStart (s : State) : Host.Outcome State Fault Refusal :=
  .next (buildStart s)

/-- OP_BUILD_DATA (R90). A chunk outside the precondition has no meaning there. -/
def execOpBuildData (b : List Byte) (s : State) : Host.Outcome State Fault Refusal :=
  if chunkOk s.cfg b then .next (buildData b s) else .refused .badChunk

/-- OP_BUILD_END (R91). -/
def execOpBuildEnd (s : State) : Host.Outcome State Fault Refusal :=
  .next (buildEnd s)

end Sys2Proof.Machine
end

