-- ==== Sys2Proof/Machine/Sequencer.lean ====
section
/-! DEFINITION. The Transfer Sequencer (R97 to R107): one meaning per step operation, each at its control point (R27). -/

namespace Sys2Proof.Machine

/-! ### The transactions, shared with the frames they send (Frames.lean) -/

/-- The pseudocode of OP_XACT_START (R103). -/
def transactStart (s : State) : Host.Outcome State Fault Refusal :=
  andThen (transact s) fun r =>
    match r.2.1 with
    | .fault => .next (r.2.2.fail .busFault)
    | .ok _ =>
      andThen (readRx r.2.2 s.cfg.ackIndex) fun ack =>
        if ack ≠ 0 then .next (r.2.2.goto .xfer .fetch)
        else .next ((buildStart r.2.2).goto .await .wait)

/-- The counters after a DATA transaction that returned `BusOk`: "advance sequence position" (R105). -/
def State.countSent (s : State) (n : Nat) : State :=
  { s with bytesSent := addW s.cfg s.bytesSent n, seq := addW s.cfg s.seq 1 }

/-- The pseudocode of OP_XACT_DATA (R105). -/
def transactData (s : State) : Host.Outcome State Fault Refusal :=
  andThen (transact s) fun r =>
    match r.2.1 with
    | .fault => .next (r.2.2.fail .busFault)
    | .ok _ =>
      let s' := r.2.2.countSent (lengthField r.1)
      if s.last then .next ((buildEnd s').goto .compl .wait) else .next (s'.goto .xfer .fetch)

/-- The pseudocode of OP_XACT_END (R106). -/
def transactEnd (s : State) : Host.Outcome State Fault Refusal :=
  andThen (transact s) fun r =>
    match r.2.1 with
    | .fault => .next (r.2.2.fail .busFault)
    | .ok _ => .next (r.2.2.goto .completed .close)

/-! ### The operations -/

/-- OP_REQUEST (R101). Away from `(IDLE, HALT)` a `REQUEST` "has no step and no effect" (R110). -/
def execOpRequest (s : State) : Host.Outcome State Fault Refusal :=
  if s.isAt .idle .halt then
    andThen (opOpen s) fun r =>
      match r.1 with
      | .notFound => .next (r.2.fail .notFound)
      | .ok => .next ((buildStart { r.2 with handleOpen := true, bytesSent := 0, seq := 0 }).goto .await .wait)
  else .next s

/-- OP_POLL in session state `st`, one of `AWAIT`, `XFER` and `COMPL` (R102). -/
def execOpPoll (st : Session) (s : State) : Host.Outcome State Fault Refusal :=
  if (Instr.opPoll st).wellFormed s.cfg && s.isAt st .wait then
    let r := readySample s
    .next (r.2.goto st (if r.1 then .issue else .wait))
  else .refused .notAtPoint

/-- OP_XACT_START (R103). -/
def execOpXactStart (s : State) : Host.Outcome State Fault Refusal :=
  if s.isAt .await .issue then transactStart s else .refused .notAtPoint

/-- OP_FETCH (R104). -/
def execOpFetch (s : State) : Host.Outcome State Fault Refusal :=
  if s.isAt .xfer .fetch then
    andThen (opRead s.cfg.chunkCap s) fun r =>
      match r.1 with
      | .readError => .next (r.2.fail .readError)
      | .empty => .next ((buildEnd { r.2 with last := true }).goto .compl .wait)
      | .data b => .next ((buildData b { r.2 with last := lastFlag s.cfg b.length }).goto .xfer .wait)
  else .refused .notAtPoint

/-- OP_XACT_DATA (R105). -/
def execOpXactData (s : State) : Host.Outcome State Fault Refusal :=
  if s.isAt .xfer .issue then transactData s else .refused .notAtPoint

/-- OP_XACT_END (R106). -/
def execOpXactEnd (s : State) : Host.Outcome State Fault Refusal :=
  if s.isAt .compl .issue then transactEnd s else .refused .notAtPoint

/-- OP_CLOSE in session state `st`, one of `COMPLETED` and `FAILED` (R107). -/
def execOpClose (st : Session) (s : State) : Host.Outcome State Fault Refusal :=
  if (Instr.opClose st).wellFormed s.cfg && s.isAt st .close then
    let s' := if s.handleOpen then { opSrcClose s with handleOpen := false } else s
    .next ({ s' with mismatch := mismatchFlag s.bytesSent s.totalSize }.goto st .halt)
  else .refused .notAtPoint

end Sys2Proof.Machine
end

