-- ==== Sys2Proof/Machine/Frames.lean ====
section
/-! DEFINITION. The three frames as instructions (R3, R68 to R70): a frame is what the block puts on the bus, so its meaning is
the transaction that sends it. The frame stands in all `F` bytes of `tx` (R109), and the transaction is that of R103, R105
or R106 at its control point (log 5). -/

namespace Sys2Proof.Machine

/-- START on the bus: the frame of R68, sent by the handshake transaction (R103). -/
def execFrameStart (s : State) : Host.Outcome State Fault Refusal :=
  if s.isAt .await .issue then transactStart (buildStart s) else .refused .notAtPoint

/-- DATA on the bus: the frame of R69, sent by the DATA transaction (R105). -/
def execFrameData (chunk : List Byte) (s : State) : Host.Outcome State Fault Refusal :=
  if s.isAt .xfer .issue then
    if chunkOk s.cfg chunk then transactData (buildData chunk s) else .refused .badChunk
  else .refused .notAtPoint

/-- END on the bus: the frame of R70, sent by the END transaction (R106). -/
def execFrameEnd (s : State) : Host.Outcome State Fault Refusal :=
  if s.isAt .compl .issue then transactEnd (buildEnd s) else .refused .notAtPoint

end Sys2Proof.Machine
end

