-- ==== Sys2Proof/Machine/Dispatch.lean ====
section
/-! DEFINITION. One arm per row of the opcode table. -/

namespace Sys2Proof.Machine

/-- The meaning of an instruction. -/
def exec (i : Instr) (s : State) : Host.Outcome State Fault Refusal :=
  match i with
  -- the frames (R68 to R70)
  | .frameStart => Sys2Proof.Machine.execFrameStart s
  | .frameData chunk => Sys2Proof.Machine.execFrameData chunk s
  | .frameEnd => Sys2Proof.Machine.execFrameEnd s
  -- the Transfer Sequencer (R101 to R107)
  | .opRequest => Sys2Proof.Machine.execOpRequest s
  | .opPoll st => Sys2Proof.Machine.execOpPoll st s
  | .opXactStart => Sys2Proof.Machine.execOpXactStart s
  | .opFetch => Sys2Proof.Machine.execOpFetch s
  | .opXactData => Sys2Proof.Machine.execOpXactData s
  | .opXactEnd => Sys2Proof.Machine.execOpXactEnd s
  | .opClose st => Sys2Proof.Machine.execOpClose st s
  -- the Frame Builder (R86 to R91)
  | .opOpen => Sys2Proof.Machine.execOpOpen s
  | .opRead n => Sys2Proof.Machine.execOpRead n s
  | .opSrcClose => Sys2Proof.Machine.execOpSrcClose s
  | .opBuildStart => Sys2Proof.Machine.execOpBuildStart s
  | .opBuildData b => Sys2Proof.Machine.execOpBuildData b s
  | .opBuildEnd => Sys2Proof.Machine.execOpBuildEnd s

end Sys2Proof.Machine
end

