-- ==== Sys2Proof/Machine/Select.lean ====
section
/-! DEFINITION. What a step is (R100): the host's events (R21, R134), the operation the control point selects (R27), and how a
word of the opcode table is put where the block selects its next operation. -/

namespace Sys2Proof.Machine

/-- What the host gives at this step (R21). -/
def hostNow (s : State) : HostInput :=
  s.env.host.headD { request := false, reset := false }

/-- The host's events of this step are used up. -/
def State.takeHost (s : State) : State :=
  { s with env := { s.env with host := s.env.host.tail } }

/-- The operation the control point selects, by the word `STATUS[5:0]` (R27, R80). -/
def selected (s : State) : Decoded :=
  decodeControl (controlWord s.st s.ph)

/-- One step (R100). `RESET` is applied instead of the step and discards a `REQUEST` (R134). In `(IDLE, HALT)` the block waits
for `REQUEST`; anywhere else a `REQUEST` is ignored (R110). In the terminal states no operation is enabled and the block
stays as it is (R111, log 7). A control point outside R27 and parameters outside R11 to R13 are refused. -/
def advance (s : State) : Host.Outcome State Fault Refusal :=
  if s.cfg.valid then
    if (hostNow s).reset then .next s.takeHost.applyReset
    else
      match selected s with
      | .ok .opRequest => if (hostNow s).request then exec .opRequest s.takeHost else .next s.takeHost
      | .ok i => exec i s.takeHost
      | .reject .noStep => .next s.takeHost
      | .reject _ => .refused .unreachablePoint
  else .refused .badConfig

/-! ### Placing a word of the opcode table (log 8) -/

/-- The control point and the frame a word of the table stands for: an operation stands at its control point, and where it
is an OP_XACT its operand is the frame R109 puts in `tx`; a frame stands in `tx` at the control point that sends it. A word
the decoder rejects stands at a control point outside R27. -/
def wordPlace (c : Config) : Encoded → Session × Phase × Option (List Byte)
  | .control w =>
    let st := Session.ofCode (w.extractLsb' 0 3)
    let ph := Phase.ofCode (w.extractLsb' 3 3)
    (st, ph, if ph = .issue then
        (if st = .await then some (startFrame c) else if st = .xfer then some (dataFrame c [0])
         else if st = .compl then some (endFrame c) else none)
      else none)
  | .frame bytes =>
    match decodeFrame c bytes with
    | .ok .frameStart => (.await, .issue, some bytes)
    | .ok (.frameData _) => (.xfer, .issue, some bytes)
    | .ok .frameEnd => (.compl, .issue, some bytes)
    | _ => (.idle, .issue, none)

/-- The environment with one answer more in front for the call the operation at a phase makes, and with a host that gives
`REQUEST` and no `RESET` at that step: "A script is this spec's stand-in for a program" (R78). -/
def Env.withAnswers (e : Env) (c : Config) (ph : Phase) : Env :=
  let e := { e with host := { request := decide (ph = .halt), reset := false } :: e.host }
  match ph with
  | .halt => { e with opens := .ok 0 :: e.opens }
  | .wait => { e with ready := true :: e.ready }
  | .issue => { e with bus := .ok (zeros c.frameSize) :: e.bus }
  | .fetch => { e with reads := .chunk 1 [0] :: e.reads }
  | _ => e

/-- The state with a word of the table placed where the next step selects its operation. -/
def placeWord (s : State) (e : Encoded) : State :=
  let p := wordPlace s.cfg e
  let s' := { s with st := p.1, ph := p.2.1, env := s.env.withAnswers s.cfg p.2.1 }
  match p.2.2 with
  | some bytes => s'.storeTx bytes
  | none => s'

end Sys2Proof.Machine
end

