-- ==== Sys2Proof/Machine/Step.lean ====
section
/-! DEFINITION. The step of the block, and a word of the opcode table as its next operation. -/

namespace Sys2Proof.Machine

/-- One step of the block (R100). -/
def step (s : State) : Host.Outcome State Fault Refusal :=
  advance s

/-- `s` with the word `w` of an opcode-table row of `nbits` bits as what the very next step performs (log 8). A number that is
no word of the table leaves `s` as it is. -/
def State.withFetchWord (s : State) (nbits w : Nat) : State :=
  match tableEncoded s.cfg nbits w with
  | some e => placeWord s e
  | none => s

end Sys2Proof.Machine
end

