-- ==== Sys2Proof/Machine/Observe.lean ====
section
/-! DEFINITION. The observation of a run (R41): the bus trace and the source trace as views of the one ordered history (R60),
and what R92, R94, R108 and R112 to R116 read in them. -/

namespace Sys2Proof.Machine

/-- "The ordered list of `(tx_bytes, result)` for every `Transact` issued" (R41). -/
def busTrace (tr : List Event) : List (List Byte × BusAnswer) :=
  tr.filterMap fun e =>
    match e with
    | .transact tx _ a => some (tx, a)
    | .ready _ | .srcOpen _ _ | .srcRead _ _ | .srcClose => none

/-- "The ordered list of `SrcOpen`, `SrcRead` and `SrcClose` calls with their results" (R41). -/
def sourceTrace (tr : List Event) : List Event :=
  tr.filter fun e =>
    match e with
    | .srcOpen _ _ | .srcRead _ _ | .srcClose => true
    | .ready _ | .transact _ _ _ => false

/-- The chunks the source delivered as `Data`, in order (R87). -/
def deliveredChunks (tr : List Event) : List (List Byte) :=
  tr.filterMap fun e =>
    match e with
    | .srcRead _ (.chunk count b) => if count = 0 then none else some b
    | .srcRead _ .readError | .ready _ | .transact _ _ _ | .srcOpen _ _ | .srcClose => none

/-- The payloads of the DATA frames sent by a transaction that returned `BusOk`, in order, read with `classify` (R72, R115). -/
def sentChunks (c : Config) (tr : List Event) : List (List Byte) :=
  (busTrace tr).filterMap fun x =>
    match x with
    | (fr, .ok _) =>
      match decodeFrame c fr with
      | .ok (.frameData b) => some b
      | _ => none
    | (_, .fault) => none

/-- The total length of some chunks. -/
def totalLength (chunks : List (List Byte)) : Nat :=
  (chunks.map List.length).sum

/-- The last readiness sample that no transaction has used yet (R40). -/
def unusedSample (tr : List Event) : Option Bool :=
  tr.foldl (fun v e =>
    match e with
    | .ready b => some b
    | .transact _ _ _ => none
    | .srcOpen _ _ | .srcRead _ _ | .srcClose => v) none

/-- A read whose result is final: `count < C`, a short read or `Empty` (R92). -/
def Event.isFinalRead (c : Config) : Event → Bool
  | .srcRead _ (.chunk count _) => decide (count < c.chunkCap)
  | .srcRead _ .readError | .ready _ | .transact _ _ _ | .srcOpen _ _ | .srcClose => false

/-- A read of the source. -/
def Event.isRead : Event → Bool
  | .srcRead _ _ => true
  | .ready _ | .transact _ _ _ | .srcOpen _ _ | .srcClose => false

/-- A successful open. -/
def Event.isOpenOk : Event → Bool
  | .srcOpen _ (.ok _) => true
  | .srcOpen _ .notFound | .ready _ | .transact _ _ _ | .srcRead _ _ | .srcClose => false

/-- A close. -/
def Event.isClose : Event → Bool
  | .srcClose => true
  | .ready _ | .transact _ _ _ | .srcRead _ _ | .srcOpen _ _ => false

end Sys2Proof.Machine
end

