-- ==== Sys2Proof/Machine/Source.lean ====
section
/-! DEFINITION. The reference file source of R85, "a deterministic source for test vectors", and the answers it gives. -/

namespace Sys2Proof.Machine

/-- A file and the read position in it (R85). -/
structure RefSource where
  file : List Byte
  pos : Nat
deriving DecidableEq, Repr

/-- `SrcOpen` answers `OpenOk(S)` (R85). -/
def RefSource.openAnswer (r : RefSource) : OpenAnswer :=
  .ok r.file.length

/-- `k = min(n, S - p)` (R85). -/
def RefSource.count (n : Nat) (r : RefSource) : Nat :=
  min n (r.file.length - r.pos)

/-- `SrcRead(n)` answers `(k, s[p .. p+k-1])` (R85). -/
def RefSource.readAnswer (n : Nat) (r : RefSource) : ReadAnswer :=
  .chunk (r.count n) ((r.file.drop r.pos).take (r.count n))

/-- Then it "sets `p <- p + k`" (R85). -/
def RefSource.afterRead (n : Nat) (r : RefSource) : RefSource :=
  { r with pos := r.pos + r.count n }

/-- The answers of reads of capacity `n` up to the first final one, `k < n` (R92), of at most `fuel` reads. -/
def RefSource.untilFinal (n : Nat) : Nat → RefSource → List ReadAnswer
  | 0, _ => []
  | fuel + 1, r =>
    if r.count n < n then [r.readAnswer n] else r.readAnswer n :: RefSource.untilFinal n fuel (r.afterRead n)

/-- The sequence of `SrcRead(n)` answers over a whole file, read from its start (R94). A read that is not final takes `n`
bytes, so a file of `S` bytes has at most `S + 1` of them when `n` is at least 1. -/
def referenceReads (n : Nat) (file : List Byte) : List ReadAnswer :=
  RefSource.untilFinal n (file.length + 1) { file := file, pos := 0 }

end Sys2Proof.Machine
end

