-- ==== Sys2Proof/Machine/Script.lean ====
section
/-! DEFINITION. Scripts, "this spec's stand-in for a program" (R78), as plain data, the state a script starts from, and the
pseudo-operations of R79. -/

namespace Sys2Proof.Machine

/-- `busans` (R78): `OK[a]` with the byte at `ACK_INDEX`, `OK[*]` where no rule reads it, or `FAULT`. -/
inductive ScriptReply where
  | ok (ack : Byte)
  | any
  | fault
deriving DecidableEq, Repr

/-- A script (R78): the parameters, then the answers of the four collaborator calls in order. -/
structure Script where
  frameSize : Nat
  chunkCap : Nat
  ackIndex : Nat := 0
  opens : OpenAnswer
  ready : List Bool
  reads : List ReadAnswer
  bus : List ScriptReply
deriving DecidableEq, Repr

/-- The configuration of a script: the parameters it names, the others at their defaults. -/
def Script.config (p : Script) : Config :=
  { frameSize := p.frameSize, chunkCap := p.chunkCap, ackIndex := p.ackIndex }

/-- The answer a `busans` stands for. It says one byte of the reply at most; the others are the `k`-th drawn ones (log 2). -/
def ScriptReply.answer (c : Config) (k : Nat) : ScriptReply → BusAnswer
  | .ok ack => .ok ((drawBytes c k).set c.ackIndex ack)
  | .any => .ok (drawBytes c k)
  | .fault => .fault

/-- The `bus` line of a script as answers, the `k`-th with the `k`-th drawn buffer. -/
def scriptBus (c : Config) : Nat → List ScriptReply → List BusAnswer
  | _, [] => []
  | k, r :: rest => r.answer c k :: scriptBus c (k + 1) rest

/-- The environment a script describes; the host gives one `REQUEST` and nothing else. -/
def Script.env (p : Script) : Env :=
  { host := [{ request := true, reset := false }], opens := [p.opens], ready := p.ready, reads := p.reads,
    bus := scriptBus p.config 0 p.bus, draws := p.bus.length }

/-- The state a script runs from: the block right after reset (R78, R147). -/
def Script.start (p : Script) : State :=
  State.boot p.config p.env

/-! ### Pseudo-operations (R79) -/

/-- `POLL*`: `k` samples `false`, then one `true`. -/
def pollStar (st : Session) (k : Nat) : List Instr :=
  List.replicate (k + 1) (.opPoll st)

/-- `HANDSHAKE`: one entry per START transaction, the number of `false` samples before it. -/
def handshake (ks : List Nat) : List Instr :=
  ks.flatMap fun k => pollStar .await k ++ [.opXactStart]

/-- `SEND_CHUNK`. -/
def sendChunk (k : Nat) : List Instr :=
  [.opFetch] ++ pollStar .xfer k ++ [.opXactData]

/-- `FINISH`. -/
def finish (k : Nat) : List Instr :=
  pollStar .compl k ++ [.opXactEnd, .opClose .completed]

/-- `SESSION`: a final OP_FETCH stands before `FINISH` if the last chunk was full. -/
def session (starts chunks : List Nat) (lastFull : Bool) (k : Nat) : List Instr :=
  [.opRequest] ++ handshake starts ++ chunks.flatMap sendChunk ++ (if lastFull then [.opFetch] else []) ++ finish k

end Sys2Proof.Machine
end

