-- ==== Sys2Proof/Machine/Text.lean ====
section
/-! DEFINITION. The written form of frames and of bus traces (R18, R77). -/

namespace Sys2Proof.Machine

/-- One hexadecimal digit, in capitals. -/
def hexDigit (n : Nat) : Char :=
  if n < 10 then Char.ofNat (48 + n) else Char.ofNat (55 + n)

/-- A byte in hex (R16). -/
def hexByte (b : Byte) : String :=
  String.ofList [hexDigit (b.toNat / 16), hexDigit (b.toNat % 16)]

/-- `OPNAME(len; p0 p1 ...)`, the zero padding "implied and not written" (R18); a string that is no frame of the block is
written as a row of bytes. -/
def frameText (c : Config) (fr : List Byte) : String :=
  match decodeFrame c fr with
  | .ok .frameStart => "START(0;)"
  | .ok .frameEnd => "END(0;)"
  | .ok (.frameData b) =>
    "DATA(" ++ toString b.length ++ ";" ++ String.join (b.map fun x => " " ++ hexByte x) ++ ")"
  | _ => String.intercalate " " (fr.map hexByte)

/-- `OK[a]` with `a` the byte at `ACK_INDEX`, `OK[*]` where no rule reads it, or `FAULT` (R77): a rule reads the reply to a
START only (R76). -/
def replyText (c : Config) (fr : List Byte) : BusAnswer → String
  | .fault => "FAULT"
  | .ok rb =>
    if decodeFrame c fr = .ok .frameStart then
      match rb[c.ackIndex]? with
      | some a => "OK[" ++ hexByte a ++ "]"
      | none => "OK[*]"
    else "OK[*]"

/-- A bus trace "one transaction per line, as `frame => reply`" (R77). -/
def busTraceText (c : Config) (tr : List Event) : List String :=
  (busTrace tr).map fun x => frameText c x.1 ++ " => " ++ replyText c x.1 x.2

end Sys2Proof.Machine
end

