-- ==== Sys2Proof/Safety.lean ====
section
/-! DEFINITION. What a safe run of the block is: the invariants every step keeps, on the registers (`RegInv`) and on the history
(`ReadinessGated`, `BusShape`, `ChunkBooks`, `SourceBooks`), and the contract of the environment. -/

namespace Sys2Proof.Machine

/-! ### The registers -/

/-- A buffer is unwritten, or one operation has written all of its `F` bytes (R29, R30). -/
def WholeBuffer (c : Config) (m : Memory) : Prop :=
  m = [] ∨ ∃ bytes : List Byte, bytes.length = c.frameSize ∧ m = Memory.ofBytes bytes

/-- The frame a control point finds in `tx` (R109): while the block waits for readiness, and when it issues the transaction,
`tx` holds the whole frame of that session state. -/
def FrameReady (s : State) : Prop :=
  s.ph = .wait ∨ s.ph = .issue →
    (s.st = .await → s.tx = Memory.ofBytes (startFrame s.cfg)) ∧
    (s.st = .xfer → ∃ b, chunkOk s.cfg b = true ∧ s.tx = Memory.ofBytes (dataFrame s.cfg b) ∧
      s.last = lastFlag s.cfg b.length) ∧
    (s.st = .compl → s.tx = Memory.ofBytes (endFrame s.cfg) ∧ s.last = true)

/-- What holds of the block between any two steps, under the parameters of R11 to R13. -/
structure RegInv (s : State) : Prop where
  valid : s.cfg.valid = true
  /-- The control point is one of R27. -/
  point : (s.st, s.ph) ∈ reachablePoints
  /-- In `IDLE` every element has its reset value (R42). -/
  idle : s.st = .idle → s = State.boot s.cfg s.env
  /-- The counters are `CNT_W`-bit values (R31 to R34). -/
  counters : s.totalSize < 2 ^ s.cfg.cntW ∧ s.bytesRead < 2 ^ s.cfg.cntW ∧
    s.bytesSent < 2 ^ s.cfg.cntW ∧ s.seq < 2 ^ s.cfg.cntW
  txWhole : WholeBuffer s.cfg s.tx
  rxWhole : WholeBuffer s.cfg s.rx
  frame : FrameReady s
  /-- A chunk is asked for only while no result was final (R92), and before the first one none was (R35). -/
  fetch : s.ph = .fetch ∨ s.st = .await → s.last = false
  /-- The handle is held from a successful open to OP_CLOSE (R36). -/
  handle : s.handleOpen = true ↔ (s.st = .await ∨ s.st = .xfer ∨ s.st = .compl ∨ s.ph = .close)
  /-- A cause is recorded exactly in `FAILED` (R28), and only `NOT_FOUND` is without a handle to close (R135). -/
  cause : (s.err ≠ .none ↔ s.st = .failed) ∧ (s.ph = .close → s.err ≠ .notFound)
  /-- `mismatch` is written by OP_CLOSE alone, on the way to `HALT` (R37, R107); before that it has its reset value. -/
  mismatch : s.mismatch = (decide (s.ph = .halt) && mismatchFlag s.bytesSent s.totalSize)

/-! ### The history -/

/-- Every transaction comes after a readiness sample that returned `true`, with no other transaction in between (R108), and
`ph = ISSUE` holds exactly when such a sample is unused (R40). -/
def ReadinessGated (s : State) : Prop :=
  (∀ pre tx n a post, s.trace = pre ++ .transact tx n a :: post → unusedSample pre = some true) ∧
  (s.ph = .issue ↔ unusedSample s.trace = some true)

/-- A START transaction answered with a NACK, `rx[ACK_INDEX] = 0` (R76). -/
def IsNack (c : Config) (x : List Byte × BusAnswer) : Prop :=
  ∃ rb, x = (startFrame c, .ok rb) ∧ rb[c.ackIndex]? = some 0

/-- A START transaction answered with an ACK, `rx[ACK_INDEX] != 0` (R76). -/
def IsAck (c : Config) (x : List Byte × BusAnswer) : Prop :=
  ∃ rb a, x = (startFrame c, .ok rb) ∧ rb[c.ackIndex]? = some a ∧ a ≠ 0

/-- A DATA transaction that returned `BusOk`. -/
def IsDataOk (c : Config) (x : List Byte × BusAnswer) : Prop :=
  ∃ b rb, x = (dataFrame c b, .ok rb) ∧ chunkOk c b = true

/-- `START=>OK[00] ^k`, the bus trace before the peer acknowledges (R112). -/
def Handshaking (c : Config) (bt : List (List Byte × BusAnswer)) : Prop :=
  ∀ x ∈ bt, IsNack c x

/-- `START=>OK[00] ^k , START=>OK[a] (a != 00) , DATA ^d` (R112). -/
def Sending (c : Config) (bt : List (List Byte × BusAnswer)) : Prop :=
  ∃ nacks ack datas, bt = nacks ++ ack :: datas ∧ Handshaking c nacks ∧ IsAck c ack ∧ ∀ x ∈ datas, IsDataOk c x

/-- The whole shape of a completed session, ending in one END frame (R112). -/
def Finished (c : Config) (bt : List (List Byte × BusAnswer)) : Prop :=
  ∃ pre rb, bt = pre ++ [(endFrame c, .ok rb)] ∧ Sending c pre

/-- A prefix of that shape whose last transaction returned `BusFault` (R112). -/
def BusFaulted (c : Config) (bt : List (List Byte × BusAnswer)) : Prop :=
  ∃ pre fr, bt = pre ++ [(fr, .fault)] ∧
    ((Handshaking c pre ∧ fr = startFrame c) ∨
     (Sending c pre ∧ (fr = endFrame c ∨ ∃ b, chunkOk c b = true ∧ fr = dataFrame c b)))

/-- The bus trace has the shape of R112 for the session state the block is in. -/
def BusShape (s : State) : Prop :=
  match s.st with
  | .idle => busTrace s.trace = []
  | .await => Handshaking s.cfg (busTrace s.trace)
  | .xfer | .compl => Sending s.cfg (busTrace s.trace)
  | .completed => Finished s.cfg (busTrace s.trace)
  | .failed =>
    match s.err with
    | .none => False
    | .notFound => busTrace s.trace = []
    | .readError => Sending s.cfg (busTrace s.trace)
    | .busFault => BusFaulted s.cfg (busTrace s.trace)
  | .reserved6 | .reserved7 => False

/-- The chunk that was read and not yet sent: the one in `tx` while its DATA frame waits, the faulted one after a `BusFault`
on it, else none (R116). -/
def Pending (s : State) (p : List (List Byte)) : Prop :=
  if s.st = .xfer ∧ (s.ph = .wait ∨ s.ph = .issue) then
    ∃ b, chunkOk s.cfg b = true ∧ s.tx = Memory.ofBytes (dataFrame s.cfg b) ∧ p = [b]
  else if s.err = .busFault then
    (p = [] ∧ ∀ b, chunkOk s.cfg b = true → (busTrace s.trace).getLast? ≠ some (dataFrame s.cfg b, .fault)) ∨
    (∃ b, chunkOk s.cfg b = true ∧ p = [b] ∧ (busTrace s.trace).getLast? = some (dataFrame s.cfg b, .fault))
  else p = []

/-- What the source delivered is what was sent and what is pending, chunk by chunk and in order (R115), and the counters count
it modulo `2^CNT_W` (R116). -/
def ChunkBooks (s : State) : Prop :=
  (∃ p, deliveredChunks s.trace = sentChunks s.cfg s.trace ++ p ∧ Pending s p) ∧
  s.bytesRead = totalLength (deliveredChunks s.trace) % 2 ^ s.cfg.cntW ∧
  s.bytesSent = totalLength (sentChunks s.cfg s.trace) % 2 ^ s.cfg.cntW ∧
  s.seq = (sentChunks s.cfg s.trace).length % 2 ^ s.cfg.cntW

/-- How the block uses the source: every read asks for `C` bytes (R10), none comes after a final result (R92, R155), `last`
says whether one was final (R35), and every successful open is closed once, or is still held (R36, R156). -/
def SourceBooks (s : State) : Prop :=
  (∀ n a, .srcRead n a ∈ s.trace → n = s.cfg.chunkCap) ∧
  (∀ pre e post, s.trace = pre ++ e :: post → e.isFinalRead s.cfg = true → ∀ e' ∈ post, e'.isRead = false) ∧
  s.last = s.trace.any (Event.isFinalRead s.cfg) ∧
  s.trace.countP Event.isOpenOk = s.trace.countP Event.isClose + s.handleOpen.toNat ∧
  s.trace.countP Event.isOpenOk ≤ 1

/-! ### The environment -/

/-- Every answer the environment scripts is within its contract (R84, R132); a free value always is. -/
def Env.meets (c : Config) (e : Env) : Prop :=
  (∀ a ∈ e.opens, a.meets c = true) ∧ (∀ a ∈ e.reads, a.meets c.chunkCap = true) ∧ (∀ a ∈ e.bus, a.meets c = true)

/-- The block's registers at two states are the same, whatever `rx`, the history and the environment hold. -/
def SameControl (s t : State) : Prop :=
  s.st = t.st ∧ s.ph = t.ph ∧ s.err = t.err ∧ s.tx = t.tx ∧ s.totalSize = t.totalSize ∧ s.bytesRead = t.bytesRead ∧
  s.bytesSent = t.bytesSent ∧ s.seq = t.seq ∧ s.last = t.last ∧ s.handleOpen = t.handleOpen ∧ s.mismatch = t.mismatch

/-! ### Write ownership (R44) -/

/-- The state elements of R44. -/
inductive Element where
  | st | ph | err | tx | rx | totalSize | bytesRead | bytesSent | seq | last | handleOpen | mismatch
deriving DecidableEq, Repr

/-- A state element has the same value at two states. -/
def Element.Same (s t : State) : Element → Prop
  | .st => t.st = s.st
  | .ph => t.ph = s.ph
  | .err => t.err = s.err
  | .tx => ∀ a, Memory.read t.tx a = Memory.read s.tx a
  | .rx => ∀ a, Memory.read t.rx a = Memory.read s.rx a
  | .totalSize => t.totalSize = s.totalSize
  | .bytesRead => t.bytesRead = s.bytesRead
  | .bytesSent => t.bytesSent = s.bytesSent
  | .seq => t.seq = s.seq
  | .last => t.last = s.last
  | .handleOpen => t.handleOpen = s.handleOpen
  | .mismatch => t.mismatch = s.mismatch

/-- The elements an instruction may write: those R44 gives the operation itself, the operations it calls (R83) and `Fail`
(R135). A frame writes what its transaction writes, and `tx` (R29). -/
def mayWrite : Instr → List Element
  | .frameStart | .opXactStart => [.st, .ph, .err, .tx, .rx]
  | .frameData _ | .opXactData => [.st, .ph, .err, .tx, .rx, .bytesSent, .seq]
  | .frameEnd => [.st, .ph, .err, .tx, .rx]
  | .opXactEnd => [.st, .ph, .err, .rx]
  | .opRequest => [.st, .ph, .err, .tx, .totalSize, .bytesRead, .bytesSent, .seq, .handleOpen]
  | .opPoll _ => [.ph]
  | .opFetch => [.st, .ph, .err, .tx, .bytesRead, .last]
  | .opClose _ => [.ph, .handleOpen, .mismatch]
  | .opOpen => [.totalSize, .bytesRead]
  | .opRead _ => [.bytesRead]
  | .opSrcClose => []
  | .opBuildStart | .opBuildData _ | .opBuildEnd => [.tx]

/-! ### Runs -/

/-- `k` steps from reset, with valid parameters in front of the environment `e`, answer `t`. -/
def Reaches (c : Config) (e : Env) (k : Nat) (t : State) : Prop :=
  c.valid = true ∧ Host.Core.run Sys2Proof.core k (State.boot c e) = .next t

/-- The chunks of a file, `floor(S / C)` full ones and one of `S mod C` bytes if that is not zero (R94). -/
def fileChunks (n : Nat) (file : List Byte) : List (List Byte) :=
  (List.range ((file.length + n - 1) / n)).map fun i => (file.drop (i * n)).take n

/-- A friendly environment for a file: the host gives one `REQUEST`, the reference file source answers (R85), the peer is
always ready, and the bus gives these replies. -/
def friendlyEnv (c : Config) (file : List Byte) (replies : List (List Byte)) : Env :=
  { host := [{ request := true, reset := false }], opens := [.ok file.length], ready := [true],
    reads := referenceReads c.chunkCap file, bus := replies.map .ok, draws := 0 }

/-- A state with another `BIT_ORDER`. -/
def State.withBitOrder (s : State) (o : BitOrder) : State :=
  { s with cfg := { s.cfg with bitOrder := o } }

/-- An outcome with another `BIT_ORDER` in its next state. -/
def outcomeWithBitOrder (o : BitOrder) : Host.Outcome State Fault Refusal → Host.Outcome State Fault Refusal
  | .next s => .next (s.withBitOrder o)
  | .fault r => .fault r
  | .refused r => .refused r

end Sys2Proof.Machine
end

