-- ==== Sys2Proof/Certificates/Slice0/Obligations.lean ====
section
/-! DEFINITION. The statements for the provers, each with the rule of the spec it formalises. A state is any state: where a
statement could fail only in states no run reaches, it assumes `RegInv`, which `StepKeepsTheRegisterInvariant` states. -/

open Sys2Proof Sys2Proof.Machine

/-! ## Encoding -/

/-- Words written out from the spec's encodings: the example frames of R68, R69 and R89 to R91 at `F = 8`, `C = 5`, and the
control-point words of R25 to R27 (R80). -/
def Obligations.SpecWordsDecodeToTheirInstructions : Prop :=
  let c : Config := { frameSize := 8, chunkCap := 5 }
  decodeFrame c [0x80, 0, 0, 0, 0, 0, 0, 0] = .ok .frameStart ∧
  decodeFrame c [0x81, 0, 2, 0x46, 0x47, 0, 0, 0] = .ok (.frameData [0x46, 0x47]) ∧
  decodeFrame c [0x82, 0, 0, 0, 0, 0, 0, 0] = .ok .frameEnd ∧
  decodeControl 0b000000 = .ok .opRequest ∧ decodeControl 0b010001 = .ok (.opPoll .await) ∧
  decodeControl 0b010010 = .ok (.opPoll .xfer) ∧ decodeControl 0b010011 = .ok (.opPoll .compl) ∧
  decodeControl 0b011001 = .ok .opXactStart ∧ decodeControl 0b001010 = .ok .opFetch ∧
  decodeControl 0b011010 = .ok .opXactData ∧ decodeControl 0b011011 = .ok .opXactEnd ∧
  decodeControl 0b100100 = .ok (.opClose .completed) ∧ decodeControl 0b100101 = .ok (.opClose .failed)

/-- R64 to R72, R80: every well-formed instruction that has an encoding decodes from it, with every operand at every value,
under every valid configuration. -/
def Obligations.DecodeReadsBackEveryEncodedInstruction : Prop :=
  ∀ (c : Config) (i : Instr) (w : Encoded), c.valid = true → i.wellFormed c = true → encode c i = some w →
    decode c w = .ok i

/-- R67, R72, R80: a word that decodes is the one encoding of a well-formed instruction; no two words share one. -/
def Obligations.EveryDecodedWordIsTheEncodingOfItsInstruction : Prop :=
  ∀ (c : Config) (w : Encoded) (i : Instr), c.valid = true → decode c w = .ok i →
    i.wellFormed c = true ∧ encode c i = some w

/-- R72 to R74: what `classify` answers on any `F`-byte string: its rejections, by name and in the order of its checks, and what
it accepts otherwise. -/
def Obligations.ClassifyDecidesEveryFrame : Prop :=
  ∀ (c : Config) (fr : List Byte) (op : Byte), c.valid = true → fr.length = c.frameSize → fr[0]? = some op →
    (op ≠ c.opStart → op ≠ c.opData → op ≠ c.opEnd → decodeFrame c fr = .reject .badOpcode) ∧
    ((op = c.opStart ∨ op = c.opEnd) → lengthField fr ≠ 0 → decodeFrame c fr = .reject .badLength) ∧
    (op = c.opData → (lengthField fr = 0 ∨ lengthField fr > c.chunkCap) → decodeFrame c fr = .reject .badLength) ∧
    ((op = c.opStart ∨ op = c.opEnd) → lengthField fr = 0 → (∃ k b, 3 ≤ k ∧ fr[k]? = some b ∧ b ≠ 0) →
      decodeFrame c fr = .reject .nonzeroPadding) ∧
    (op = c.opData → 1 ≤ lengthField fr → lengthField fr ≤ c.chunkCap →
      (∃ k b, 3 + lengthField fr ≤ k ∧ fr[k]? = some b ∧ b ≠ 0) → decodeFrame c fr = .reject .nonzeroPadding) ∧
    (lengthField fr = 0 → (∀ k b, 3 ≤ k → fr[k]? = some b → b = 0) →
      (op = c.opStart → decodeFrame c fr = .ok .frameStart) ∧ (op = c.opEnd → decodeFrame c fr = .ok .frameEnd)) ∧
    (op = c.opData → 1 ≤ lengthField fr → lengthField fr ≤ c.chunkCap →
      (∀ k b, 3 + lengthField fr ≤ k → fr[k]? = some b → b = 0) →
      decodeFrame c fr = .ok (.frameData ((fr.drop 3).take (lengthField fr))))

/-- R49, R66, R71: the header of a DATA frame is the opcode, then the high and the low byte of the length. -/
def Obligations.DataHeaderIsBigEndian : Prop :=
  ∀ (c : Config) (b : List Byte), c.valid = true → chunkOk c b = true →
    (dataFrame c b)[0]? = some c.opData ∧
    (dataFrame c b)[1]? = some ((BitVec.ofNat 16 b.length).extractLsb' 8 8) ∧
    (dataFrame c b)[2]? = some ((BitVec.ofNat 16 b.length).extractLsb' 0 8) ∧
    (headerWord (dataFrame c b)).extractLsb' 16 8 = c.opData ∧
    ((headerWord (dataFrame c b)).extractLsb' 0 16).toNat = b.length ∧
    lengthField (dataFrame c b) = b.length ∧ (dataFrame c b).length = c.frameSize

/-! ## Reset, the read-out and the control point -/

/-- R145, R134: a step at which the host gives `RESET` leaves every element at its reset value, buffers unwritten, whatever
the block was doing and whether or not `REQUEST` comes with it. No collaborator is called: the environment loses the host's
events of this step and nothing else. Two clauses are the model's, not the rule's: that the history is empty after it, since
`RESET` starts the observation again (log 6, DEDUCED), and that `RESET` is applied at a control point outside R27 as well
(log 13, DEDUCED). -/
def Obligations.ResetGivesEveryElementItsResetValue : Prop :=
  ∀ s : State, s.cfg.valid = true → (hostNow s).reset = true →
    ∃ t, step s = .next t ∧ t.st = .idle ∧ t.ph = .halt ∧ t.err = .none ∧
      t.totalSize = 0 ∧ t.bytesRead = 0 ∧ t.bytesSent = 0 ∧ t.seq = 0 ∧
      t.last = false ∧ t.handleOpen = false ∧ t.mismatch = false ∧
      (∀ a, Memory.read t.tx a = none ∧ Memory.read t.rx a = none) ∧ t.cfg = s.cfg ∧ t.env = s.takeHost.env ∧ t.trace = []

/-- R42, R147: `State.reset` is the block right after reset with the default parameters of R8, R10, R12, R13 and R14. -/
def Obligations.ResetStateHasTheSpecsValues : Prop :=
  State.reset.st = .idle ∧ State.reset.ph = .halt ∧ State.reset.err = .none ∧
  State.reset.totalSize = 0 ∧ State.reset.bytesRead = 0 ∧ State.reset.bytesSent = 0 ∧ State.reset.seq = 0 ∧
  State.reset.last = false ∧ State.reset.handleOpen = false ∧ State.reset.mismatch = false ∧
  State.reset.tx = [] ∧ State.reset.rx = [] ∧ State.reset.status = 0 ∧
  State.reset.cfg.frameSize = 1024 ∧ State.reset.cfg.chunkCap = 1021 ∧ State.reset.cfg.ackIndex = 0 ∧
  State.reset.cfg.cntW = 32 ∧ State.reset.cfg.opStart = 128 ∧ State.reset.cfg.opData = 129 ∧ State.reset.cfg.opEnd = 130

/-- R38 with the encodings of R25, R26 and R28: the layout of `STATUS`, field by field, with its reserved bits zero, and the
number each value of `st`, `ph` and `err` reads as. -/
def Obligations.StatusHasTheLayoutOfItsFields : Prop :=
  (Session.idle.code = 0 ∧ Session.await.code = 1 ∧ Session.xfer.code = 2 ∧ Session.compl.code = 3 ∧
    Session.completed.code = 4 ∧ Session.failed.code = 5) ∧
  (Phase.halt.code = 0 ∧ Phase.fetch.code = 1 ∧ Phase.wait.code = 2 ∧ Phase.issue.code = 3 ∧ Phase.close.code = 4) ∧
  (ErrCode.none.code = 0 ∧ ErrCode.notFound.code = 1 ∧ ErrCode.readError.code = 2 ∧ ErrCode.busFault.code = 3) ∧
  ∀ s : State, s.status.extractLsb' 0 3 = s.st.code ∧ s.status.extractLsb' 3 3 = s.ph.code ∧
    s.status.extractLsb' 6 2 = s.err.code ∧ s.status.getLsbD 8 = s.last ∧ s.status.getLsbD 9 = s.handleOpen ∧
    s.status.getLsbD 10 = s.mismatch ∧ s.status.extractLsb' 11 21 = 0

/-- R100: where the control-point word decodes to an operation and the host gives no `RESET`, a step is exactly that operation
on the state whose host events are used up; OP_REQUEST needs `REQUEST`. What is decoded is well-formed. -/
def Obligations.StepRunsTheSelectedOperation : Prop :=
  ∀ (s : State) (i : Instr), s.cfg.valid = true → (hostNow s).reset = false →
    decodeControl (controlWord s.st s.ph) = .ok i → (i = .opRequest → (hostNow s).request = true) →
    i.wellFormed s.cfg = true ∧ step s = exec i s.takeHost ∧
    s.takeHost = { s with env := { s.env with host := s.env.host.tail } }

/-- R64, R100, R109: where `tx` holds a frame and the block is at the control point that sends it, a step is that frame's
meaning: START at `(AWAIT, ISSUE)`, DATA at `(XFER, ISSUE)`, END at `(COMPL, ISSUE)`. A frame row's meaning is log 5's. -/
def Obligations.StepSendsTheFrameInTheBuffer : Prop :=
  ∀ (s : State) (fr : List Byte) (i : Instr), s.cfg.valid = true → (hostNow s).reset = false → s.ph = .issue →
    s.tx = Memory.ofBytes fr → decodeFrame s.cfg fr = .ok i →
    ((i = .frameStart ∧ s.st = .await) ∨ (i = .frameEnd ∧ s.st = .compl) ∨ ((∃ b, i = .frameData b) ∧ s.st = .xfer)) →
    step s = exec i s.takeHost

/-- R100, R111, R110: in `(COMPLETED, HALT)` and `(FAILED, HALT)` no operation is enabled, with or without `REQUEST`; in
`(IDLE, HALT)` the block waits for `REQUEST`. That such a step leaves the state as it is, but for the host's events being
used up, is the model's choice (log 7). -/
def Obligations.HaltedBlockStaysAsItIs : Prop :=
  ∀ s : State, s.cfg.valid = true → (hostNow s).reset = false → s.ph = .halt →
    (s.st = .completed ∨ s.st = .failed ∨ (s.st = .idle ∧ (hostNow s).request = false)) → step s = .next s.takeHost

/-- R110: a `REQUEST` outside `(IDLE, HALT)` has no effect: the step is the one without it. -/
def Obligations.RequestElsewhereIsIgnored : Prop :=
  ∀ (s : State) (rest : List HostInput) (reset : Bool), ¬(s.st = .idle ∧ s.ph = .halt) →
    step { s with env := { s.env with host := { request := true, reset := reset } :: rest } } =
      step { s with env := { s.env with host := { request := false, reset := reset } :: rest } }

/-- R11 to R13: a configuration that breaks a constraint on the parameters is refused. R11 says "refuse" of the constraints on
`C`; that the model refuses the other two likewise, and that every step refuses, one with `RESET` included, is the model's
(log 13, DEDUCED). -/
def Obligations.InvalidParametersAreRefused : Prop :=
  ∀ s : State,
    (s.cfg.chunkCap < 1 ∨ s.cfg.frameSize < s.cfg.chunkCap + 3 ∨ 65535 < s.cfg.chunkCap ∨
      s.cfg.opStart = s.cfg.opData ∨ s.cfg.opStart = s.cfg.opEnd ∨ s.cfg.opData = s.cfg.opEnd ∨
      s.cfg.frameSize ≤ s.cfg.ackIndex) →
    step s = .refused .badConfig

/-- R27, R131: a control point outside the table, the reserved codes among them, is refused. -/
def Obligations.UnreachableControlPointIsRefused : Prop :=
  ∀ s : State, s.cfg.valid = true → (hostNow s).reset = false → (s.st, s.ph) ∉ reachablePoints →
    step s = .refused .unreachablePoint

/-! ## The Frame Builder -/

/-- R89, R91: OP_BUILD_START and OP_BUILD_END write every byte of `tx`, whatever it held, and nothing else. -/
def Obligations.BuildStartAndEndWriteTheWholeBuffer : Prop :=
  ∀ s : State, s.cfg.valid = true →
    (∃ t, exec .opBuildStart s = .next t ∧ t = { s with tx := t.tx } ∧
      ∀ a, Memory.read t.tx a = if a = 0 then some s.cfg.opStart else if a < s.cfg.frameSize then some 0 else none) ∧
    (∃ t, exec .opBuildEnd s = .next t ∧ t = { s with tx := t.tx } ∧
      ∀ a, Memory.read t.tx a = if a = 0 then some s.cfg.opEnd else if a < s.cfg.frameSize then some 0 else none)

/-- R90, R49, R50: OP_BUILD_DATA writes the opcode, the big-endian length, the chunk in file order and zeros after it, and
nothing but `tx`. -/
def Obligations.BuildDataWritesHeaderChunkAndPadding : Prop :=
  ∀ (s : State) (b : List Byte), s.cfg.valid = true → 1 ≤ b.length → b.length ≤ s.cfg.chunkCap →
    ∃ t, exec (.opBuildData b) s = .next t ∧ t = { s with tx := t.tx } ∧
      ∀ a, Memory.read t.tx a =
        if a = 0 then some s.cfg.opData
        else if a = 1 then some (BitVec.ofNat 8 (b.length / 256))
        else if a = 2 then some (BitVec.ofNat 8 b.length)
        else if a < 3 + b.length then b[a - 3]?
        else if a < s.cfg.frameSize then some 0 else none

/-- R89 to R91, R153: the byte-by-byte loops of the pseudocode, on any buffer with bytes at the offsets `0..F-1` only, leave
exactly the whole-buffer write the model makes. -/
def Obligations.PseudocodeLoopsEqualTheWholeBufferWrite : Prop :=
  ∀ (c : Config) (tx : Memory) (b : List Byte), c.valid = true → Memory.wf tx = true →
    (∀ a, c.frameSize ≤ a → Memory.read tx a = none) →
    buildStartLoop c tx = Memory.ofBytes (startFrame c) ∧ buildEndLoop c tx = Memory.ofBytes (endFrame c) ∧
    (chunkOk c b = true → buildDataLoop c b tx = Memory.ofBytes (dataFrame c b))

/-- R86: OP_OPEN records the size, zeroes `bytes_read` and returns `OK`, or writes nothing and returns `NOT_FOUND`; nothing else
changes but the observation and the environment. -/
def Obligations.OpenRecordsTheSourceSize : Prop :=
  ∀ s : State,
    (∀ size, openNow s = .ok size → size < 2 ^ s.cfg.cntW →
      let t : State := { s with totalSize := size, bytesRead := 0, env := s.env.usedOpen,
                                trace := s.trace ++ [.srcOpen s.cfg.sourceName (.ok size)] }
      exec .opOpen s = .next t ∧ opOpen s = .next (.ok, t)) ∧
    (openNow s = .notFound →
      let t : State := { s with env := s.env.usedOpen, trace := s.trace ++ [.srcOpen s.cfg.sourceName .notFound] }
      exec .opOpen s = .next t ∧ opOpen s = .next (.notFound, t))

/-- R87, R16, R96: OP_READ adds `count` to `bytes_read` modulo `2^CNT_W` and returns `DATA`, or `EMPTY` for a count of zero; on
`ReadError` it writes nothing and returns `READ_ERROR`. -/
def Obligations.ReadCountsTheBytesItDelivers : Prop :=
  ∀ (s : State) (n : Nat),
    (∀ b, readNow n s = .chunk b.length b → b.length ≤ n →
      let t : State := { s with bytesRead := (s.bytesRead + b.length) % 2 ^ s.cfg.cntW, env := s.env.usedRead,
                                trace := s.trace ++ [.srcRead n (.chunk b.length b)] }
      exec (.opRead n) s = .next t ∧ opRead n s = .next (if b.length = 0 then .empty else .data b, t)) ∧
    (readNow n s = .readError →
      let t : State := { s with env := s.env.usedRead, trace := s.trace ++ [.srcRead n .readError] }
      exec (.opRead n) s = .next t ∧ opRead n s = .next (.readError, t))

/-- R88: OP_SRCCLOSE calls `SrcClose()` and writes no state. -/
def Obligations.SourceCloseWritesNoState : Prop :=
  ∀ s : State, exec .opSrcClose s = .next { s with trace := s.trace ++ [.srcClose] }

/-- R131, R132: an answer outside its contract is refused by every operation that gets it: a size `2^CNT_W` or more, a read of
more than was asked for or of another length than its count, a reply of another length than `F`. -/
def Obligations.AnswersOutsideTheContractAreRefused : Prop :=
  ∀ (s : State) (n : Nat),
    (∀ size, openNow s = .ok size → 2 ^ s.cfg.cntW ≤ size →
      exec .opOpen s = .refused .sizeTooLarge ∧
      (s.st = .idle → s.ph = .halt → exec .opRequest s = .refused .sizeTooLarge)) ∧
    (∀ count b, readNow n s = .chunk count b → (n < count ∨ b.length ≠ count) →
      exec (.opRead n) s = .refused .badRead ∧
      (n = s.cfg.chunkCap → s.st = .xfer → s.ph = .fetch → exec .opFetch s = .refused .badRead)) ∧
    (∀ bytes rb, readTx s = .next bytes → busNow s = .ok rb → rb.length ≠ s.cfg.frameSize → s.ph = .issue →
      (s.st = .await → exec .opXactStart s = .refused .badReply) ∧
      (s.st = .xfer → exec .opXactData s = .refused .badReply) ∧
      (s.st = .compl → exec .opXactEnd s = .refused .badReply))

/-! ## The Transfer Sequencer -/

/-- R101, R110, R135: OP_REQUEST on a source that opens starts the session; on `NotFound` it fails it and writes `err`, `st` and
`ph` only; away from `(IDLE, HALT)` a `REQUEST` has no effect. -/
def Obligations.RequestStartsASession : Prop :=
  ∀ s : State,
    (s.st = .idle → s.ph = .halt → ∀ size, openNow s = .ok size → size < 2 ^ s.cfg.cntW →
      exec .opRequest s = .next { s with
        st := .await, ph := .wait, handleOpen := true, totalSize := size, bytesRead := 0, bytesSent := 0, seq := 0,
        tx := Memory.ofBytes (startFrame s.cfg), env := s.env.usedOpen,
        trace := s.trace ++ [.srcOpen s.cfg.sourceName (.ok size)] }) ∧
    (s.st = .idle → s.ph = .halt → openNow s = .notFound →
      exec .opRequest s = .next { s with
        st := .failed, ph := if s.handleOpen then .close else .halt, err := .notFound, env := s.env.usedOpen,
        trace := s.trace ++ [.srcOpen s.cfg.sourceName .notFound] }) ∧
    (¬(s.st = .idle ∧ s.ph = .halt) → exec .opRequest s = .next s)

/-- R126: in every run, `NOT_FOUND` means that the session never started: the block is in `(FAILED, HALT)`, no handle is held, and
the one interaction since the last `RESET` (log 6) was the open that failed: no frame was sent, and `SrcClose` was not called. -/
def Obligations.NotFoundSessionNeverStarts : Prop :=
  ∀ (c : Config) (e : Env) (k : Nat) (t : State), Reaches c e k t → t.err = .notFound →
    t.st = .failed ∧ t.ph = .halt ∧ t.handleOpen = false ∧ t.trace = [.srcOpen c.sourceName .notFound]

/-- R102: OP_POLL samples once and writes `ph` only. -/
def Obligations.PollWritesOnlyThePhase : Prop :=
  ∀ (s : State) (st : Session), (st = .await ∨ st = .xfer ∨ st = .compl) → s.st = st → s.ph = .wait →
    exec (.opPoll st) s = .next { s with
      ph := if sampleNow s then .issue else .wait, env := s.env.usedReady,
      trace := s.trace ++ [.ready (sampleNow s)] }

/-- R22, R78, R84: what the environment answers. A scripted list is used up from its front; the last readiness value repeats
for ever; where nothing is scripted the answer is a free value (log 2), always within its contract. -/
def Obligations.EnvironmentAnswersInScriptOrder : Prop :=
  ∀ (s : State) (n : Nat),
    (∀ a rest, s.env.opens = a :: rest → openNow s = a ∧ s.env.usedOpen = { s.env with opens := rest }) ∧
    (∀ a rest, s.env.reads = a :: rest → readNow n s = a ∧ s.env.usedRead = { s.env with reads := rest }) ∧
    (∀ a rest, s.env.bus = a :: rest → busNow s = a ∧ s.env.usedBus = { s.env with bus := rest }) ∧
    (∀ b rest, s.env.ready = b :: rest → sampleNow s = b) ∧
    (∀ b, s.env.ready = [b] → s.env.usedReady = s.env) ∧
    (∀ b b' rest, s.env.ready = b :: b' :: rest → s.env.usedReady = { s.env with ready := b' :: rest }) ∧
    (s.env.opens = [] → (openNow s).meets s.cfg = true) ∧ (s.env.reads = [] → (readNow n s).meets n = true) ∧
    (s.env.bus = [] → (busNow s).meets s.cfg = true)

/-- R103, R157: OP_XACT_START judges the ACK by the byte `rx[ACK_INDEX]` of the reply just received, any nonzero value being
an ACK, and rebuilds the START frame on a NACK. -/
def Obligations.StartTransactionJudgesTheAcknowledgeByte : Prop :=
  ∀ (s : State) (bytes rb : List Byte) (ack : Byte), s.st = .await → s.ph = .issue → readTx s = .next bytes →
    busNow s = .ok rb → rb.length = s.cfg.frameSize → rb[s.cfg.ackIndex]? = some ack →
    exec .opXactStart s = .next
      (if ack = 0 then
        { s with ph := .wait, tx := Memory.ofBytes (startFrame s.cfg), rx := Memory.ofBytes rb, env := s.env.usedBus,
                 trace := s.trace ++ [.transact bytes (8 * s.cfg.frameSize) (.ok rb)] }
       else
        { s with st := .xfer, ph := .fetch, rx := Memory.ofBytes rb, env := s.env.usedBus,
                 trace := s.trace ++ [.transact bytes (8 * s.cfg.frameSize) (.ok rb)] })

/-- R104: OP_FETCH on a chunk builds its DATA frame and sets `last` by the length; on `Empty` it builds END and goes to
`COMPL` without a DATA frame; on `ReadError` it fails the session and changes neither `bytes_read` nor `last`. -/
def Obligations.FetchFormatsTheChunkItReads : Prop :=
  ∀ s : State, s.st = .xfer → s.ph = .fetch →
    (∀ b, readNow s.cfg.chunkCap s = .chunk b.length b → 1 ≤ b.length → b.length ≤ s.cfg.chunkCap →
      exec .opFetch s = .next { s with
        ph := .wait, last := decide (b.length < s.cfg.chunkCap), tx := Memory.ofBytes (dataFrame s.cfg b),
        bytesRead := (s.bytesRead + b.length) % 2 ^ s.cfg.cntW, env := s.env.usedRead,
        trace := s.trace ++ [.srcRead s.cfg.chunkCap (.chunk b.length b)] }) ∧
    (readNow s.cfg.chunkCap s = .chunk 0 [] →
      exec .opFetch s = .next { s with
        st := .compl, ph := .wait, last := true, tx := Memory.ofBytes (endFrame s.cfg),
        bytesRead := s.bytesRead % 2 ^ s.cfg.cntW, env := s.env.usedRead,
        trace := s.trace ++ [.srcRead s.cfg.chunkCap (.chunk 0 [])] }) ∧
    (readNow s.cfg.chunkCap s = .readError →
      exec .opFetch s = .next { s with
        st := .failed, ph := if s.handleOpen then .close else .halt, err := .readError, env := s.env.usedRead,
        trace := s.trace ++ [.srcRead s.cfg.chunkCap .readError] })

/-- R105: OP_XACT_DATA advances `bytes_sent` by the length field of the frame sent and `seq` by one, both modulo `2^CNT_W`,
and goes on by `last`. -/
def Obligations.DataTransactionAdvancesTheCounters : Prop :=
  ∀ (s : State) (b rb : List Byte), s.cfg.valid = true → chunkOk s.cfg b = true → s.st = .xfer → s.ph = .issue →
    s.tx = Memory.ofBytes (dataFrame s.cfg b) → busNow s = .ok rb → rb.length = s.cfg.frameSize →
    exec .opXactData s = .next { s with
      st := if s.last then .compl else .xfer, ph := if s.last then .wait else .fetch,
      tx := if s.last then Memory.ofBytes (endFrame s.cfg) else s.tx, rx := Memory.ofBytes rb,
      bytesSent := (s.bytesSent + b.length) % 2 ^ s.cfg.cntW, seq := (s.seq + 1) % 2 ^ s.cfg.cntW,
      env := s.env.usedBus,
      trace := s.trace ++ [.transact (dataFrame s.cfg b) (8 * s.cfg.frameSize) (.ok rb)] }

/-- R106: OP_XACT_END receives the reply, does not inspect it, and goes to `(COMPLETED, CLOSE)`. -/
def Obligations.EndTransactionCompletesTheSession : Prop :=
  ∀ (s : State) (bytes rb : List Byte), s.st = .compl → s.ph = .issue → readTx s = .next bytes → busNow s = .ok rb →
    rb.length = s.cfg.frameSize →
    exec .opXactEnd s = .next { s with
      st := .completed, ph := .close, rx := Memory.ofBytes rb, env := s.env.usedBus,
      trace := s.trace ++ [.transact bytes (8 * s.cfg.frameSize) (.ok rb)] }

/-- R107, R37, R125: OP_CLOSE closes a held handle, sets `mismatch` and halts in the same session state. -/
def Obligations.CloseReleasesTheHandleAndFlagsMismatch : Prop :=
  ∀ (s : State) (st : Session), (st = .completed ∨ st = .failed) → s.st = st → s.ph = .close →
    exec (.opClose st) s = .next { s with
      ph := .halt, handleOpen := false, mismatch := decide (s.bytesSent ≠ s.totalSize),
      trace := s.trace ++ (if s.handleOpen then [.srcClose] else []) }

/-- R68 to R70 with R103, R105 and R106: a frame as an instruction completes: all of `tx` is the frame, whatever it held, and
the transaction that sends it has its effect. That a frame row means its transaction is the model's choice (log 5). -/
def Obligations.FrameInstructionsSendTheirFrame : Prop :=
  ∀ (s : State) (rb : List Byte), s.cfg.valid = true → s.ph = .issue → busNow s = .ok rb →
    rb.length = s.cfg.frameSize →
    (s.st = .await → ∀ ack, rb[s.cfg.ackIndex]? = some ack →
      exec .frameStart s = .next { s with
        st := if ack = 0 then .await else .xfer, ph := if ack = 0 then .wait else .fetch,
        tx := Memory.ofBytes (startFrame s.cfg), rx := Memory.ofBytes rb, env := s.env.usedBus,
        trace := s.trace ++ [.transact (startFrame s.cfg) (8 * s.cfg.frameSize) (.ok rb)] }) ∧
    (s.st = .xfer → ∀ b, chunkOk s.cfg b = true →
      exec (.frameData b) s = .next { s with
        st := if s.last then .compl else .xfer, ph := if s.last then .wait else .fetch,
        tx := Memory.ofBytes (if s.last then endFrame s.cfg else dataFrame s.cfg b), rx := Memory.ofBytes rb,
        bytesSent := (s.bytesSent + b.length) % 2 ^ s.cfg.cntW, seq := (s.seq + 1) % 2 ^ s.cfg.cntW,
        env := s.env.usedBus,
        trace := s.trace ++ [.transact (dataFrame s.cfg b) (8 * s.cfg.frameSize) (.ok rb)] }) ∧
    (s.st = .compl →
      exec .frameEnd s = .next { s with
        st := .completed, ph := .close, tx := Memory.ofBytes (endFrame s.cfg), rx := Memory.ofBytes rb,
        env := s.env.usedBus,
        trace := s.trace ++ [.transact (endFrame s.cfg) (8 * s.cfg.frameSize) (.ok rb)] })

/-- A frame as an instruction is its transaction (R103, R105, R106) on the frame just built, a `BusFault` included: the model's
choice (log 5). -/
def Obligations.FrameInstructionIsItsTransaction : Prop :=
  ∀ s : State,
    exec .frameStart s = exec .opXactStart { s with tx := Memory.ofBytes (startFrame s.cfg) } ∧
    (∀ b, chunkOk s.cfg b = true →
      exec (.frameData b) s = exec .opXactData { s with tx := Memory.ofBytes (dataFrame s.cfg b) }) ∧
    exec .frameEnd s = exec .opXactEnd { s with tx := Memory.ofBytes (endFrame s.cfg) }

/-- R100, R27, R90, R110: an operation called by hand away from the control point it is selected at has no meaning and is
refused, a chunk outside `1 <= n <= C` too; OP_REQUEST there "has no step and no effect". No step ever calls one so
(`StepRunsTheSelectedOperation`). That the call is refused is the model's choice (log 10). -/
def Obligations.OperationsAwayFromTheirPointAreRefused : Prop :=
  ∀ s : State,
    (¬(s.st = .idle ∧ s.ph = .halt) → exec .opRequest s = .next s) ∧
    (∀ st, ¬((st = .await ∨ st = .xfer ∨ st = .compl) ∧ s.st = st ∧ s.ph = .wait) →
      exec (.opPoll st) s = .refused .notAtPoint) ∧
    (∀ st, ¬((st = .completed ∨ st = .failed) ∧ s.st = st ∧ s.ph = .close) →
      exec (.opClose st) s = .refused .notAtPoint) ∧
    (¬(s.st = .xfer ∧ s.ph = .fetch) → exec .opFetch s = .refused .notAtPoint) ∧
    (¬(s.st = .await ∧ s.ph = .issue) →
      exec .opXactStart s = .refused .notAtPoint ∧ exec .frameStart s = .refused .notAtPoint) ∧
    (¬(s.st = .xfer ∧ s.ph = .issue) →
      exec .opXactData s = .refused .notAtPoint ∧ ∀ b, exec (.frameData b) s = .refused .notAtPoint) ∧
    (¬(s.st = .compl ∧ s.ph = .issue) →
      exec .opXactEnd s = .refused .notAtPoint ∧ exec .frameEnd s = .refused .notAtPoint) ∧
    (∀ b, chunkOk s.cfg b = false → exec (.opBuildData b) s = .refused .badChunk ∧
      (s.st = .xfer → s.ph = .issue → exec (.frameData b) s = .refused .badChunk))

/-! ## Failures -/

/-- R128, R135, R123, R30: a `BusFault` in any transacting state fails the session; the counters stand, and `rx` is a draw of
`F` bytes (free values, log 3: the statement holds whatever they are). -/
def Obligations.BusFaultFailsTheSession : Prop :=
  ∀ (s : State) (i : Instr) (bytes : List Byte), s.ph = .issue → readTx s = .next bytes → busNow s = .fault →
    ((i = .opXactStart ∧ s.st = .await) ∨ (i = .opXactData ∧ s.st = .xfer) ∨ (i = .opXactEnd ∧ s.st = .compl)) →
    ∃ t, exec i s = .next t ∧
      t = { s with st := .failed, ph := if s.handleOpen then .close else .halt, err := .busFault, rx := t.rx, env := t.env,
                   trace := s.trace ++ [.transact bytes (8 * s.cfg.frameSize) .fault] } ∧
      (∀ a, a < s.cfg.frameSize → (Memory.read t.rx a).isSome) ∧
      t.env = s.env.usedBus.drawn

/-- R127, R123, R135: a `ReadError` is fatal to the session and not retried: two steps later the block is in `(FAILED, HALT)` with
`READ_ERROR`, OP_CLOSE has closed the handle, no frame was sent, and the counters, `last` and `tx` stand. -/
def Obligations.ReadErrorFailsTheSessionAndClosesTheSource : Prop :=
  ∀ s : State, RegInv s → s.st = .xfer → s.ph = .fetch → readNow s.cfg.chunkCap s = .readError →
    (hostNow s).reset = false → (hostNow s.takeHost).reset = false →
    ∃ t, Host.Core.run Sys2Proof.core 2 s = .next t ∧
      t = { s with st := .failed, ph := .halt, err := .readError, handleOpen := false,
                   mismatch := decide (s.bytesSent ≠ s.totalSize), env := t.env,
                   trace := s.trace ++ [.srcRead s.cfg.chunkCap .readError, .srcClose] }

/-- R43: a transaction on a `tx` with a byte nothing has written faults, rather than sending zero; on a written one it reads
every byte. A read of `rx` likewise. -/
def Obligations.ReadingAnUnwrittenByteFaults : Prop :=
  ∀ s : State, Memory.wf s.tx = true →
    (∀ a, a < s.cfg.frameSize → Memory.read s.tx a = none →
      s.ph = .issue →
      (s.st = .await → exec .opXactStart s = .fault (.unwritten .tx)) ∧
      (s.st = .xfer → exec .opXactData s = .fault (.unwritten .tx)) ∧
      (s.st = .compl → exec .opXactEnd s = .fault (.unwritten .tx))) ∧
    (∀ bytes : List Byte, bytes.length = s.cfg.frameSize →
      (∀ a, a < s.cfg.frameSize → Memory.read s.tx a = bytes[a]?) → readTx s = .next bytes) ∧
    (∀ i, Memory.read s.rx i = none → readRx s i = .fault (.unwritten .rx)) ∧
    (∀ i b, Memory.read s.rx i = some b → readRx s i = .next b)

/-! ## Rules of the whole block -/

/-- R44: every state element is written only by the operations the rule lists; for every instruction and every element it may
not write, the element is unchanged, and the parameters always are. The rows of the three frames are log 5's. -/
def Obligations.OnlyTheListedOperationsWriteAnElement : Prop :=
  ∀ (i : Instr) (s t : State), exec i s = .next t →
    (∀ e : Element, e ∉ mayWrite i → e.Same s t) ∧ t.cfg = s.cfg ∧ t.env.host = s.env.host

/-- Every meaning keeps the buffers in canonical form (the model's form of memory, log 1). -/
def Obligations.EveryInstructionKeepsBuffersCanonical : Prop :=
  ∀ (i : Instr) (s t : State), exec i s = .next t → Memory.wf s.tx = true → Memory.wf s.rx = true →
    Memory.wf t.tx = true ∧ Memory.wf t.rx = true

/-- R7, R134, R150: a step makes at most one collaborator call, and changes no parameter. -/
def Obligations.StepMakesAtMostOneCollaboratorCall : Prop :=
  ∀ s t : State, step s = .next t → t.cfg = s.cfg ∧
    ((hostNow s).reset = true ∧ t.trace = [] ∨ t.trace = s.trace ∨ ∃ e, t.trace = s.trace ++ [e])

/-- R111, R136, R137, R28: `FAILED` is left by `RESET` only, the first cause stays, and no frame is sent after a failure. -/
def Obligations.FailureIsFinalAndSendsNothing : Prop :=
  ∀ s t : State, s.st = .failed → (hostNow s).reset = false → step s = .next t →
    t.st = .failed ∧ t.err = s.err ∧ busTrace t.trace = busTrace s.trace

/-- R119, R76: what a reply holds beside the byte `rx[ACK_INDEX]` of a reply to START changes no register, no `tx` and no
control point: two steps that differ in the reply only. -/
def Obligations.RepliesAreNotInspected : Prop :=
  ∀ (s t t' : State) (rb rb' : List Byte) (rest : List BusAnswer),
    rb.length = s.cfg.frameSize → rb'.length = s.cfg.frameSize →
    (s.st = .await → (rb[s.cfg.ackIndex]? = some 0 ↔ rb'[s.cfg.ackIndex]? = some 0)) →
    (hostNow s).reset = false → s.ph = .issue →
    step { s with env := { s.env with bus := .ok rb :: rest } } = .next t →
    step { s with env := { s.env with bus := .ok rb' :: rest } } = .next t' → SameControl t t'

/-- R15, R51: no rule reads `BIT_ORDER`: another order changes nothing of a step but the parameter itself. That the orders are
the two of `BitOrder` is the model's choice (log 4). -/
def Obligations.BitOrderIsReadByNoRule : Prop :=
  ∀ (s : State) (o : BitOrder), step (s.withBitOrder o) = outcomeWithBitOrder o (step s)

/-! ## Invariants every step keeps -/

/-- The invariants hold right after reset, for any valid parameters and any environment. -/
def Obligations.InvariantsHoldAfterReset : Prop :=
  ∀ (c : Config) (e : Env), c.valid = true →
    RegInv (State.boot c e) ∧ ReadinessGated (State.boot c e) ∧ BusShape (State.boot c e) ∧
    ChunkBooks (State.boot c e) ∧ SourceBooks (State.boot c e)

/-- R27, R29 to R37, R109: the invariant of the registers and buffers, kept by every step from every state that meets it. -/
def Obligations.StepKeepsTheRegisterInvariant : Prop :=
  ∀ s t : State, RegInv s → step s = .next t → RegInv t

/-- R40, R108: readiness gating is kept by every step. -/
def Obligations.StepKeepsReadinessGating : Prop :=
  ∀ s t : State, RegInv s → ReadinessGated s → step s = .next t → ReadinessGated t

/-- R112: the shape of the bus trace is kept by every step. -/
def Obligations.StepKeepsTheBusTraceShape : Prop :=
  ∀ s t : State, RegInv s → BusShape s → step s = .next t → BusShape t

/-- R115, R116: the account of delivered and sent chunks is kept by every step. -/
def Obligations.StepKeepsTheChunkAccount : Prop :=
  ∀ s t : State, RegInv s → ChunkBooks s → step s = .next t → ChunkBooks t

/-- R36, R92, R155, R156: the use of the source is kept by every step. -/
def Obligations.StepKeepsTheUseOfTheSource : Prop :=
  ∀ s t : State, RegInv s → SourceBooks s → step s = .next t → SourceBooks t

/-- R131: with collaborators that meet their contracts a step from a state of the invariant always goes on: it neither faults
nor refuses, and what the environment still has to give meets the contract again. -/
def Obligations.StepGoesOnUnderTheContract : Prop :=
  ∀ s : State, RegInv s → s.env.meets s.cfg → ∃ t, step s = .next t ∧ t.env.meets t.cfg

/-! ## Whole sessions, over every environment -/

/-- R108, R72, R15: in every run, every transaction of the history, which is that since the last `RESET` (log 6), comes after an
unused sample `true` and sends a whole frame that `classify` accepts, announced as `8 * F` bits. -/
def Obligations.EveryTransactionIsGatedAndSendsAFrame : Prop :=
  ∀ (c : Config) (e : Env) (k : Nat) (t : State), Reaches c e k t →
    ∀ pre tx n a post, t.trace = pre ++ .transact tx n a :: post →
      unusedSample pre = some true ∧ n = 8 * c.frameSize ∧ ∃ i, decodeFrame c tx = .ok i

/-- R112, R113, R136: the bus trace of every run that has reached an end. A completed session shows some NACKed STARTs, one
acknowledged, the DATA frames and one END, and every transaction returned `BusOk`. A failed one shows nothing after `NOT_FOUND`,
a prefix of that shape whose last transaction faulted after `BUS_FAULT`, and after `READ_ERROR` a prefix that ends after an
acknowledged START or a DATA frame and has no END. The trace is that since the last `RESET` (log 6). -/
def Obligations.SessionTraceHasTheSpecsShape : Prop :=
  ∀ (c : Config) (e : Env) (k : Nat) (t : State), Reaches c e k t →
    (t.st = .completed → ∃ nacks ack datas fin, busTrace t.trace = nacks ++ [ack] ++ datas ++ [(endFrame c, .ok fin)] ∧
      (∀ x ∈ nacks, IsNack c x) ∧ IsAck c ack ∧ ∀ x ∈ datas, IsDataOk c x) ∧
    (t.st = .failed → t.err ≠ .none ∧
      (t.err = .notFound → busTrace t.trace = []) ∧
      (t.err = .busFault → BusFaulted c (busTrace t.trace)) ∧
      (t.err = .readError → Sending c (busTrace t.trace) ∧ ∀ x ∈ busTrace t.trace, x.1 ≠ endFrame c))

/-- R115, R116, R95: a completed session has sent exactly the chunks the source delivered, in order, each as its DATA frame,
and its counters say how many frames and bytes. Two sessions over the same chunks so send the same DATA frames. The history
is that since the last `RESET` (log 6). -/
def Obligations.CompletedSessionRoundTrips : Prop :=
  ∀ (c : Config) (e : Env) (k : Nat) (t : State), Reaches c e k t → t.st = .completed →
    sentChunks c t.trace = deliveredChunks t.trace ∧
    (busTrace t.trace).filterMap (fun x => if x.1 = startFrame c ∨ x.1 = endFrame c then none else some x.1) =
      (deliveredChunks t.trace).map (dataFrame c) ∧
    t.seq = (deliveredChunks t.trace).length % 2 ^ c.cntW ∧
    t.bytesSent = totalLength (deliveredChunks t.trace) % 2 ^ c.cntW ∧ t.bytesRead = t.bytesSent

/-- R116: after a `BUS_FAULT` on a DATA frame of length `n`, `bytes_read = bytes_sent +W n`. The bus trace is that since the
last `RESET` (log 6). -/
def Obligations.FaultedDataFrameIsReadButNotSent : Prop :=
  ∀ (c : Config) (e : Env) (k : Nat) (t : State) (b : List Byte), Reaches c e k t → t.err = .busFault →
    chunkOk c b = true → (busTrace t.trace).getLast? = some (dataFrame c b, .fault) →
    t.bytesRead = addW c t.bytesSent b.length

/-- R36, R156: at the end of a session the source has been closed as often as it was opened, at most once; the history
starts again at `RESET` (log 6). -/
def Obligations.SourceIsClosedExactlyOncePerOpen : Prop :=
  ∀ (c : Config) (e : Env) (k : Nat) (t : State), Reaches c e k t → t.ph = .halt →
    t.trace.countP Event.isClose = t.trace.countP Event.isOpenOk ∧ t.trace.countP Event.isOpenOk ≤ 1

/-- R92, R155: in no run is there a read after a final result, in the history since the last `RESET` (log 6). -/
def Obligations.NoReadFollowsAFinalResult : Prop :=
  ∀ (c : Config) (e : Env) (k : Nat) (t : State), Reaches c e k t →
    ∀ pre n count b post, t.trace = pre ++ .srcRead n (.chunk count b) :: post → count < c.chunkCap →
      ∀ x ∈ post, x.isRead = false

/-- R94: the reference file source answers `floor(S / C)` full chunks, then one final answer of `S mod C` bytes, an `Empty`
if that is zero: `floor(S / C) + 1` reads, which deliver the chunks of the file. -/
def Obligations.ReferenceSourceReadsTheWholeFile : Prop :=
  ∀ (n : Nat) (file : List Byte), 1 ≤ n →
    referenceReads n file =
      (List.range (file.length / n)).map (fun i => .chunk n ((file.drop (i * n)).take n)) ++
        [.chunk (file.length % n) (file.drop (file.length / n * n))] ∧
    (referenceReads n file).length = file.length / n + 1 ∧
    (fileChunks n file).length = (if file.length % n = 0 then file.length / n else file.length / n + 1) ∧
    (fileChunks n file).flatten = file

/-- R93, R113, R114, R116: against the reference file source, with a peer that is always ready, gives `nacks.length` NACKs and
then an ACK, the session ends after exactly the steps of the operations it takes, in `(COMPLETED, HALT)` with no mismatch. The
bus trace shows `nacks.length + 1` START frames, the DATA frames of the file's chunks and one END frame. -/
def Obligations.ReferenceSessionCompletes : Prop :=
  ∀ (c : Config) (file : List Byte) (nacks : List (List Byte)) (first : List Byte) (others : List (List Byte)),
    c.valid = true → file.length < 2 ^ c.cntW →
    (∀ rb ∈ nacks, rb.length = c.frameSize ∧ rb[c.ackIndex]? = some 0) →
    first.length = c.frameSize → first[c.ackIndex]? ≠ some 0 → (∀ rb ∈ others, rb.length = c.frameSize) →
    others.length = (fileChunks c.chunkCap file).length + 1 →
    ∃ t, Host.Core.run Sys2Proof.core
        (6 + 2 * nacks.length + 3 * (fileChunks c.chunkCap file).length + (if file.length % c.chunkCap = 0 then 1 else 0))
        (State.boot c (friendlyEnv c file (nacks ++ first :: others))) = .next t ∧
      t.st = .completed ∧ t.ph = .halt ∧ t.err = .none ∧ t.mismatch = false ∧ t.handleOpen = false ∧
      t.totalSize = file.length ∧ t.bytesSent = file.length ∧ t.bytesRead = file.length ∧
      (busTrace t.trace).map Prod.fst =
        List.replicate (nacks.length + 1) (startFrame c) ++ (fileChunks c.chunkCap file).map (dataFrame c) ++ [endFrame c]

/-- R79, R102: `POLL*`. `k` samples that are `false` and one that is `true` take `k + 1` steps, change nothing but `ph`, and end in
`ISSUE`. -/
def Obligations.PollingEndsAtTheFirstAssertedSample : Prop :=
  ∀ (k : Nat) (s : State), s.cfg.valid = true → (s.st = .await ∨ s.st = .xfer ∨ s.st = .compl) → s.ph = .wait →
    s.env.ready = List.replicate k false ++ [true] → (∀ h ∈ s.env.host, h.reset = false) →
    ∃ t, Host.Core.run Sys2Proof.core (k + 1) s = .next t ∧
      t = { s with ph := .issue, env := t.env, trace := s.trace ++ List.replicate k (.ready false) ++ [.ready true] }

/-- R118, R102: a peer whose readiness never comes halts the session for ever: after any number of steps the block still waits,
having taken one sample a step and issued no transaction, and every register and buffer stands. -/
def Obligations.StuckPeerHaltsTheSession : Prop :=
  ∀ (k : Nat) (s : State), s.cfg.valid = true → (s.st = .await ∨ s.st = .xfer ∨ s.st = .compl) → s.ph = .wait →
    s.env.ready = [false] → (∀ h ∈ s.env.host, h.reset = false) →
    ∃ t, Host.Core.run Sys2Proof.core k s = .next t ∧ t.st = s.st ∧ t.ph = .wait ∧
      t = { s with env := t.env, trace := s.trace ++ List.replicate k (.ready false) } ∧
      busTrace t.trace = busTrace s.trace

/-- R118, R113: a peer that always answers a NACK keeps the block in the handshake: every two steps send one START frame more. -/
def Obligations.NackedHandshakeIsRetriedForEver : Prop :=
  ∀ (replies : List (List Byte)) (rest : List BusAnswer) (s : State), s.cfg.valid = true → s.st = .await → s.ph = .wait →
    s.tx = Memory.ofBytes (startFrame s.cfg) → s.env.ready = [true] → s.env.bus = replies.map .ok ++ rest →
    (∀ rb ∈ replies, rb.length = s.cfg.frameSize ∧ rb[s.cfg.ackIndex]? = some 0) →
    (∀ h ∈ s.env.host, h.reset = false) →
    ∃ t, Host.Core.run Sys2Proof.core (2 * replies.length) s = .next t ∧ t.st = .await ∧ t.ph = .wait ∧
      t.tx = Memory.ofBytes (startFrame s.cfg) ∧
      busTrace t.trace = busTrace s.trace ++ replies.map (fun rb => (startFrame s.cfg, .ok rb))
end

