-- ==== Sys2Proof/Laws/Frames.lean ====
section
/-! SUPPORT. The sizes and the fields of the three frames, and the codes of the control point. -/

namespace Sys2Proof

/-! ### Parameters -/

/-- What a valid configuration says (R11 to R13). -/
theorem Config.valid_iff (c : Config) : c.valid = true ↔
    1 ≤ c.chunkCap ∧ c.chunkCap + 3 ≤ c.frameSize ∧ c.chunkCap ≤ 65535 ∧
    c.opStart ≠ c.opData ∧ c.opStart ≠ c.opEnd ∧ c.opData ≠ c.opEnd ∧ c.ackIndex < c.frameSize := by
  simp [Config.valid, and_assoc]

theorem chunkOk_iff (c : Config) (b : List Byte) : chunkOk c b = true ↔
    1 ≤ b.length ∧ b.length ≤ c.chunkCap ∧ c.chunkCap + 3 ≤ c.frameSize := by
  simp [chunkOk, and_assoc]

/-! ### Sizes: every frame is exactly `F` bytes (R64) -/

@[simp] theorem length_zeros (n : Nat) : (zeros n).length = n :=
  List.length_replicate

theorem length_startFrame {c : Config} (h : c.valid = true) : (startFrame c).length = c.frameSize := by
  have := (Config.valid_iff c).mp h
  simp [startFrame]
  omega

theorem length_endFrame {c : Config} (h : c.valid = true) : (endFrame c).length = c.frameSize := by
  have := (Config.valid_iff c).mp h
  simp [endFrame]
  omega

theorem length_dataFrame {c : Config} {b : List Byte} (h : chunkOk c b = true) :
    (dataFrame c b).length = c.frameSize := by
  have := (chunkOk_iff c b).mp h
  simp [dataFrame]
  omega

/-! ### The length field -/

@[simp] theorem lengthField_startFrame (c : Config) : lengthField (startFrame c) = 0 := rfl
@[simp] theorem lengthField_endFrame (c : Config) : lengthField (endFrame c) = 0 := rfl

/-- The big-endian length field of a DATA frame reads back as its length: no bit of it is lost (R49, R66). -/
theorem lengthField_dataFrame {c : Config} {b : List Byte} (h : b.length ≤ 65535) :
    lengthField (dataFrame c b) = b.length := by
  simp only [dataFrame, lengthHigh, lengthLow, List.cons_append, List.nil_append, lengthField, BitVec.toNat_ofNat]
  omega

/-! ### Control points -/

@[simp] theorem Session.ofCode_code (st : Session) : Session.ofCode st.code = st := by
  cases st <;> rfl

@[simp] theorem Phase.ofCode_code (ph : Phase) : Phase.ofCode ph.code = ph := by
  cases ph <;> rfl

/-- A control-point word decodes as the pair it was made of. -/
@[simp] theorem decodeControl_controlWord (st : Session) (ph : Phase) :
    decodeControl (controlWord st ph) = decodePoint st ph := by
  cases st <;> cases ph <;> decide

end Sys2Proof
end

