-- ==== Sys2Proof/Laws/Memory.lean ====
section
/-! SUPPORT. The laws of the buffers: reads after writes, the canonical form and what keeps it, and the whole-buffer read. -/

namespace Sys2Proof.Machine

/-! ### One byte -/

theorem Memory.read_write_same (m : Memory) (a : Nat) (v : Byte) : Memory.read (Memory.write m a v) a = some v := by
  induction m with
  | nil => simp [Memory.write, Memory.read]
  | cons x rest ih =>
    obtain ⟨k, b⟩ := x
    unfold Memory.write
    split
    · simp [Memory.read]
    · split
      · simp [Memory.read]
      · rename_i _ hne
        simp [Memory.read, Ne.symm hne, ih]

theorem Memory.read_write_other (m : Memory) {a i : Nat} (v : Byte) (h : i ≠ a) :
    Memory.read (Memory.write m a v) i = Memory.read m i := by
  induction m with
  | nil => simp [Memory.write, Memory.read, Ne.symm h]
  | cons x rest ih =>
    obtain ⟨k, b⟩ := x
    unfold Memory.write
    split
    · simp [Memory.read, Ne.symm h]
    · split
      · rename_i hk
        simp [Memory.read, ← hk, Ne.symm h]
      · simp [Memory.read, ih]

/-- Read after write, the two cases in one. -/
theorem Memory.read_write (m : Memory) (a i : Nat) (v : Byte) :
    Memory.read (Memory.write m a v) i = if i = a then some v else Memory.read m i := by
  split
  · subst i; exact Memory.read_write_same m a v
  · rename_i h; exact Memory.read_write_other m v h

/-! ### The canonical form -/

@[simp] theorem Memory.wf_nil : Memory.wf [] = true := rfl

/-- In a canonical buffer every offset after the first lies above it, and the rest is canonical. -/
theorem Memory.wf_cons {k : Nat} {b : Byte} {rest : Memory} :
    Memory.wf ((k, b) :: rest) = true ↔ (∀ x ∈ rest, k < x.1) ∧ Memory.wf rest = true := by
  induction rest generalizing k b with
  | nil => simp [Memory.wf]
  | cons y rest ih =>
    obtain ⟨k', b'⟩ := y
    rw [Memory.wf]
    simp only [Bool.and_eq_true, decide_eq_true_eq, List.mem_cons, forall_eq_or_imp]
    constructor
    · rintro ⟨h, hw⟩
      exact ⟨⟨h, fun x hx => lt_trans h ((ih.mp hw).1 x hx)⟩, hw⟩
    · rintro ⟨⟨h, _⟩, hw⟩
      exact ⟨h, hw⟩

theorem Memory.mem_write {m : Memory} {a : Nat} {v : Byte} {x : Host.Cell} (h : x ∈ Memory.write m a v) :
    x = (a, v) ∨ x ∈ m := by
  induction m with
  | nil => simpa [Memory.write] using h
  | cons y rest ih =>
    obtain ⟨k, b⟩ := y
    unfold Memory.write at h
    split at h
    · simpa using h
    · split at h
      · rcases List.mem_cons.mp h with h | h
        · exact .inl h
        · exact .inr (List.mem_cons_of_mem _ h)
      · rcases List.mem_cons.mp h with h | h
        · exact .inr (h ▸ List.mem_cons_self)
        · exact (ih h).imp id (List.mem_cons_of_mem _)

/-- A one-byte write keeps the canonical form. -/
theorem Memory.wf_write {m : Memory} (a : Nat) (v : Byte) (h : Memory.wf m = true) :
    Memory.wf (Memory.write m a v) = true := by
  induction m with
  | nil => rfl
  | cons y rest ih =>
    obtain ⟨k, b⟩ := y
    obtain ⟨hk, hr⟩ := Memory.wf_cons.mp h
    unfold Memory.write
    split
    · rename_i hak
      refine Memory.wf_cons.mpr ⟨fun x hx => ?_, h⟩
      rcases List.mem_cons.mp hx with rfl | hx
      · exact hak
      · exact lt_trans hak (hk x hx)
    · split
      · rename_i _ hak
        exact Memory.wf_cons.mpr ⟨fun x hx => hak ▸ hk x hx, hr⟩
      · rename_i h1 h2
        refine Memory.wf_cons.mpr ⟨fun x hx => ?_, ih hr⟩
        rcases Memory.mem_write hx with rfl | hx
        · show k < a
          omega
        · exact hk x hx

theorem Memory.fst_ofBytesFrom {bytes : List Byte} {a : Nat} {x : Host.Cell} (h : x ∈ Memory.ofBytesFrom a bytes) :
    a ≤ x.1 ∧ x.1 < a + bytes.length := by
  induction bytes generalizing a with
  | nil => simp [Memory.ofBytesFrom] at h
  | cons b rest ih =>
    rcases List.mem_cons.mp h with rfl | h
    · simp
    · have := ih h
      simp only [List.length_cons]
      omega

theorem Memory.wf_ofBytesFrom (a : Nat) (bytes : List Byte) : Memory.wf (Memory.ofBytesFrom a bytes) = true := by
  induction bytes generalizing a with
  | nil => rfl
  | cons b rest ih =>
    exact Memory.wf_cons.mpr ⟨fun x hx => by have := Memory.fst_ofBytesFrom hx; omega, ih (a + 1)⟩

/-- A whole-buffer write leaves the canonical form, whatever the buffer held. -/
@[simp] theorem Memory.wf_ofBytes (bytes : List Byte) : Memory.wf (Memory.ofBytes bytes) = true :=
  Memory.wf_ofBytesFrom 0 bytes

/-! ### Whole buffers -/

theorem Memory.read_ofBytesFrom (a : Nat) (bytes : List Byte) (i : Nat) :
    Memory.read (Memory.ofBytesFrom a bytes) i = if i < a then none else bytes[i - a]? := by
  induction bytes generalizing a with
  | nil => simp [Memory.ofBytesFrom, Memory.read]
  | cons b rest ih =>
    rw [Memory.ofBytesFrom, Memory.read, ih]
    by_cases hai : a = i
    · subst hai; simp
    · rw [if_neg hai]
      by_cases hlt : i < a
      · rw [if_pos hlt, if_pos (by omega)]
      · rw [if_neg hlt, if_neg (by omega), show i - a = (i - (a + 1)) + 1 by omega, List.getElem?_cons_succ]

/-- The k-th byte of a whole-buffer write stands at offset k, and nothing else is written. -/
@[simp] theorem Memory.read_ofBytes (bytes : List Byte) (i : Nat) :
    Memory.read (Memory.ofBytes bytes) i = bytes[i]? := by
  rw [Memory.ofBytes, Memory.read_ofBytesFrom]
  simp

theorem Memory.run_ofBytesFrom (bytes : List Byte) (a : Nat) :
    Memory.run (Memory.ofBytesFrom a bytes) a bytes.length = some bytes := by
  induction bytes generalizing a with
  | nil => simp [Memory.ofBytesFrom, Memory.run]
  | cons b rest ih => simp [Memory.ofBytesFrom, Memory.run, ih (a + 1)]

/-- Reading a whole buffer back gives the bytes written. -/
theorem Memory.run_ofBytes {bytes : List Byte} {n : Nat} (h : bytes.length = n) :
    Memory.run (Memory.ofBytes bytes) 0 n = some bytes := by
  subst h
  exact Memory.run_ofBytesFrom bytes 0

/-- A whole-buffer read answers as many bytes as it was asked for. -/
theorem Memory.length_run {m : Memory} {a n : Nat} {bytes : List Byte} (h : Memory.run m a n = some bytes) :
    bytes.length = n := by
  induction m generalizing a n bytes with
  | nil =>
    cases n with
    | zero => simp [Memory.run] at h; simp [← h]
    | succ n => simp [Memory.run] at h
  | cons x rest ih =>
    obtain ⟨k, b⟩ := x
    cases n with
    | zero => simp [Memory.run] at h; simp [← h]
    | succ n =>
      unfold Memory.run at h
      split at h
      · obtain ⟨l, hl, rfl⟩ := Option.map_eq_some_iff.mp h
        simp [ih hl]
      · split at h
        · exact ih h
        · simp at h

end Sys2Proof.Machine
end

