-- ==== Sys2Proof/Laws/State.lean ====
section
/-! SUPPORT. One lemma per field and per named update of the state, so that no proof unfolds a record update. -/

namespace Sys2Proof.Machine

/-! ### `goto` -/

@[simp] theorem State.goto_cfg (s : State) (st : Session) (ph : Phase) : (s.goto st ph).cfg = s.cfg := rfl
@[simp] theorem State.goto_st (s : State) (st : Session) (ph : Phase) : (s.goto st ph).st = st := rfl
@[simp] theorem State.goto_ph (s : State) (st : Session) (ph : Phase) : (s.goto st ph).ph = ph := rfl
@[simp] theorem State.goto_err (s : State) (st : Session) (ph : Phase) : (s.goto st ph).err = s.err := rfl
@[simp] theorem State.goto_tx (s : State) (st : Session) (ph : Phase) : (s.goto st ph).tx = s.tx := rfl
@[simp] theorem State.goto_rx (s : State) (st : Session) (ph : Phase) : (s.goto st ph).rx = s.rx := rfl
@[simp] theorem State.goto_totalSize (s : State) (st : Session) (ph : Phase) : (s.goto st ph).totalSize = s.totalSize := rfl
@[simp] theorem State.goto_bytesRead (s : State) (st : Session) (ph : Phase) : (s.goto st ph).bytesRead = s.bytesRead := rfl
@[simp] theorem State.goto_bytesSent (s : State) (st : Session) (ph : Phase) : (s.goto st ph).bytesSent = s.bytesSent := rfl
@[simp] theorem State.goto_seq (s : State) (st : Session) (ph : Phase) : (s.goto st ph).seq = s.seq := rfl
@[simp] theorem State.goto_last (s : State) (st : Session) (ph : Phase) : (s.goto st ph).last = s.last := rfl
@[simp] theorem State.goto_handleOpen (s : State) (st : Session) (ph : Phase) : (s.goto st ph).handleOpen = s.handleOpen := rfl
@[simp] theorem State.goto_mismatch (s : State) (st : Session) (ph : Phase) : (s.goto st ph).mismatch = s.mismatch := rfl
@[simp] theorem State.goto_trace (s : State) (st : Session) (ph : Phase) : (s.goto st ph).trace = s.trace := rfl
@[simp] theorem State.goto_env (s : State) (st : Session) (ph : Phase) : (s.goto st ph).env = s.env := rfl

/-! ### `storeTx` -/

@[simp] theorem State.storeTx_cfg (s : State) (bytes : List Byte) : (s.storeTx bytes).cfg = s.cfg := rfl
@[simp] theorem State.storeTx_st (s : State) (bytes : List Byte) : (s.storeTx bytes).st = s.st := rfl
@[simp] theorem State.storeTx_ph (s : State) (bytes : List Byte) : (s.storeTx bytes).ph = s.ph := rfl
@[simp] theorem State.storeTx_err (s : State) (bytes : List Byte) : (s.storeTx bytes).err = s.err := rfl
@[simp] theorem State.storeTx_tx (s : State) (bytes : List Byte) : (s.storeTx bytes).tx = Memory.ofBytes bytes := rfl
@[simp] theorem State.storeTx_rx (s : State) (bytes : List Byte) : (s.storeTx bytes).rx = s.rx := rfl
@[simp] theorem State.storeTx_totalSize (s : State) (bytes : List Byte) : (s.storeTx bytes).totalSize = s.totalSize := rfl
@[simp] theorem State.storeTx_bytesRead (s : State) (bytes : List Byte) : (s.storeTx bytes).bytesRead = s.bytesRead := rfl
@[simp] theorem State.storeTx_bytesSent (s : State) (bytes : List Byte) : (s.storeTx bytes).bytesSent = s.bytesSent := rfl
@[simp] theorem State.storeTx_seq (s : State) (bytes : List Byte) : (s.storeTx bytes).seq = s.seq := rfl
@[simp] theorem State.storeTx_last (s : State) (bytes : List Byte) : (s.storeTx bytes).last = s.last := rfl
@[simp] theorem State.storeTx_handleOpen (s : State) (bytes : List Byte) : (s.storeTx bytes).handleOpen = s.handleOpen := rfl
@[simp] theorem State.storeTx_mismatch (s : State) (bytes : List Byte) : (s.storeTx bytes).mismatch = s.mismatch := rfl
@[simp] theorem State.storeTx_trace (s : State) (bytes : List Byte) : (s.storeTx bytes).trace = s.trace := rfl
@[simp] theorem State.storeTx_env (s : State) (bytes : List Byte) : (s.storeTx bytes).env = s.env := rfl

/-! ### `storeRx` -/

@[simp] theorem State.storeRx_cfg (s : State) (bytes : List Byte) : (s.storeRx bytes).cfg = s.cfg := rfl
@[simp] theorem State.storeRx_st (s : State) (bytes : List Byte) : (s.storeRx bytes).st = s.st := rfl
@[simp] theorem State.storeRx_ph (s : State) (bytes : List Byte) : (s.storeRx bytes).ph = s.ph := rfl
@[simp] theorem State.storeRx_err (s : State) (bytes : List Byte) : (s.storeRx bytes).err = s.err := rfl
@[simp] theorem State.storeRx_tx (s : State) (bytes : List Byte) : (s.storeRx bytes).tx = s.tx := rfl
@[simp] theorem State.storeRx_rx (s : State) (bytes : List Byte) : (s.storeRx bytes).rx = Memory.ofBytes bytes := rfl
@[simp] theorem State.storeRx_totalSize (s : State) (bytes : List Byte) : (s.storeRx bytes).totalSize = s.totalSize := rfl
@[simp] theorem State.storeRx_bytesRead (s : State) (bytes : List Byte) : (s.storeRx bytes).bytesRead = s.bytesRead := rfl
@[simp] theorem State.storeRx_bytesSent (s : State) (bytes : List Byte) : (s.storeRx bytes).bytesSent = s.bytesSent := rfl
@[simp] theorem State.storeRx_seq (s : State) (bytes : List Byte) : (s.storeRx bytes).seq = s.seq := rfl
@[simp] theorem State.storeRx_last (s : State) (bytes : List Byte) : (s.storeRx bytes).last = s.last := rfl
@[simp] theorem State.storeRx_handleOpen (s : State) (bytes : List Byte) : (s.storeRx bytes).handleOpen = s.handleOpen := rfl
@[simp] theorem State.storeRx_mismatch (s : State) (bytes : List Byte) : (s.storeRx bytes).mismatch = s.mismatch := rfl
@[simp] theorem State.storeRx_trace (s : State) (bytes : List Byte) : (s.storeRx bytes).trace = s.trace := rfl
@[simp] theorem State.storeRx_env (s : State) (bytes : List Byte) : (s.storeRx bytes).env = s.env := rfl

/-! ### `record` -/

@[simp] theorem State.record_cfg (s : State) (e : Event) : (s.record e).cfg = s.cfg := rfl
@[simp] theorem State.record_st (s : State) (e : Event) : (s.record e).st = s.st := rfl
@[simp] theorem State.record_ph (s : State) (e : Event) : (s.record e).ph = s.ph := rfl
@[simp] theorem State.record_err (s : State) (e : Event) : (s.record e).err = s.err := rfl
@[simp] theorem State.record_tx (s : State) (e : Event) : (s.record e).tx = s.tx := rfl
@[simp] theorem State.record_rx (s : State) (e : Event) : (s.record e).rx = s.rx := rfl
@[simp] theorem State.record_totalSize (s : State) (e : Event) : (s.record e).totalSize = s.totalSize := rfl
@[simp] theorem State.record_bytesRead (s : State) (e : Event) : (s.record e).bytesRead = s.bytesRead := rfl
@[simp] theorem State.record_bytesSent (s : State) (e : Event) : (s.record e).bytesSent = s.bytesSent := rfl
@[simp] theorem State.record_seq (s : State) (e : Event) : (s.record e).seq = s.seq := rfl
@[simp] theorem State.record_last (s : State) (e : Event) : (s.record e).last = s.last := rfl
@[simp] theorem State.record_handleOpen (s : State) (e : Event) : (s.record e).handleOpen = s.handleOpen := rfl
@[simp] theorem State.record_mismatch (s : State) (e : Event) : (s.record e).mismatch = s.mismatch := rfl
@[simp] theorem State.record_trace (s : State) (e : Event) : (s.record e).trace = s.trace ++ [e] := rfl
@[simp] theorem State.record_env (s : State) (e : Event) : (s.record e).env = s.env := rfl

/-! ### `countSent` -/

@[simp] theorem State.countSent_cfg (s : State) (n : Nat) : (s.countSent n).cfg = s.cfg := rfl
@[simp] theorem State.countSent_st (s : State) (n : Nat) : (s.countSent n).st = s.st := rfl
@[simp] theorem State.countSent_ph (s : State) (n : Nat) : (s.countSent n).ph = s.ph := rfl
@[simp] theorem State.countSent_err (s : State) (n : Nat) : (s.countSent n).err = s.err := rfl
@[simp] theorem State.countSent_tx (s : State) (n : Nat) : (s.countSent n).tx = s.tx := rfl
@[simp] theorem State.countSent_rx (s : State) (n : Nat) : (s.countSent n).rx = s.rx := rfl
@[simp] theorem State.countSent_totalSize (s : State) (n : Nat) : (s.countSent n).totalSize = s.totalSize := rfl
@[simp] theorem State.countSent_bytesRead (s : State) (n : Nat) : (s.countSent n).bytesRead = s.bytesRead := rfl
@[simp] theorem State.countSent_bytesSent (s : State) (n : Nat) : (s.countSent n).bytesSent = addW s.cfg s.bytesSent n := rfl
@[simp] theorem State.countSent_seq (s : State) (n : Nat) : (s.countSent n).seq = addW s.cfg s.seq 1 := rfl
@[simp] theorem State.countSent_last (s : State) (n : Nat) : (s.countSent n).last = s.last := rfl
@[simp] theorem State.countSent_handleOpen (s : State) (n : Nat) : (s.countSent n).handleOpen = s.handleOpen := rfl
@[simp] theorem State.countSent_mismatch (s : State) (n : Nat) : (s.countSent n).mismatch = s.mismatch := rfl
@[simp] theorem State.countSent_trace (s : State) (n : Nat) : (s.countSent n).trace = s.trace := rfl
@[simp] theorem State.countSent_env (s : State) (n : Nat) : (s.countSent n).env = s.env := rfl

/-! ### `takeHost` -/

@[simp] theorem State.takeHost_cfg (s : State) : (s.takeHost).cfg = s.cfg := rfl
@[simp] theorem State.takeHost_st (s : State) : (s.takeHost).st = s.st := rfl
@[simp] theorem State.takeHost_ph (s : State) : (s.takeHost).ph = s.ph := rfl
@[simp] theorem State.takeHost_err (s : State) : (s.takeHost).err = s.err := rfl
@[simp] theorem State.takeHost_tx (s : State) : (s.takeHost).tx = s.tx := rfl
@[simp] theorem State.takeHost_rx (s : State) : (s.takeHost).rx = s.rx := rfl
@[simp] theorem State.takeHost_totalSize (s : State) : (s.takeHost).totalSize = s.totalSize := rfl
@[simp] theorem State.takeHost_bytesRead (s : State) : (s.takeHost).bytesRead = s.bytesRead := rfl
@[simp] theorem State.takeHost_bytesSent (s : State) : (s.takeHost).bytesSent = s.bytesSent := rfl
@[simp] theorem State.takeHost_seq (s : State) : (s.takeHost).seq = s.seq := rfl
@[simp] theorem State.takeHost_last (s : State) : (s.takeHost).last = s.last := rfl
@[simp] theorem State.takeHost_handleOpen (s : State) : (s.takeHost).handleOpen = s.handleOpen := rfl
@[simp] theorem State.takeHost_mismatch (s : State) : (s.takeHost).mismatch = s.mismatch := rfl
@[simp] theorem State.takeHost_trace (s : State) : (s.takeHost).trace = s.trace := rfl
@[simp] theorem State.takeHost_env (s : State) : (s.takeHost).env = { s.env with host := s.env.host.tail } := rfl

/-! ### `buildStart` -/

@[simp] theorem buildStart_cfg (s : State) : (buildStart s).cfg = s.cfg := rfl
@[simp] theorem buildStart_st (s : State) : (buildStart s).st = s.st := rfl
@[simp] theorem buildStart_ph (s : State) : (buildStart s).ph = s.ph := rfl
@[simp] theorem buildStart_err (s : State) : (buildStart s).err = s.err := rfl
@[simp] theorem buildStart_tx (s : State) : (buildStart s).tx = Memory.ofBytes (startFrame s.cfg) := rfl
@[simp] theorem buildStart_rx (s : State) : (buildStart s).rx = s.rx := rfl
@[simp] theorem buildStart_totalSize (s : State) : (buildStart s).totalSize = s.totalSize := rfl
@[simp] theorem buildStart_bytesRead (s : State) : (buildStart s).bytesRead = s.bytesRead := rfl
@[simp] theorem buildStart_bytesSent (s : State) : (buildStart s).bytesSent = s.bytesSent := rfl
@[simp] theorem buildStart_seq (s : State) : (buildStart s).seq = s.seq := rfl
@[simp] theorem buildStart_last (s : State) : (buildStart s).last = s.last := rfl
@[simp] theorem buildStart_handleOpen (s : State) : (buildStart s).handleOpen = s.handleOpen := rfl
@[simp] theorem buildStart_mismatch (s : State) : (buildStart s).mismatch = s.mismatch := rfl
@[simp] theorem buildStart_trace (s : State) : (buildStart s).trace = s.trace := rfl
@[simp] theorem buildStart_env (s : State) : (buildStart s).env = s.env := rfl

/-! ### `buildData` -/

@[simp] theorem buildData_cfg (s : State) (b : List Byte) : (buildData b s).cfg = s.cfg := rfl
@[simp] theorem buildData_st (s : State) (b : List Byte) : (buildData b s).st = s.st := rfl
@[simp] theorem buildData_ph (s : State) (b : List Byte) : (buildData b s).ph = s.ph := rfl
@[simp] theorem buildData_err (s : State) (b : List Byte) : (buildData b s).err = s.err := rfl
@[simp] theorem buildData_tx (s : State) (b : List Byte) : (buildData b s).tx = Memory.ofBytes (dataFrame s.cfg b) := rfl
@[simp] theorem buildData_rx (s : State) (b : List Byte) : (buildData b s).rx = s.rx := rfl
@[simp] theorem buildData_totalSize (s : State) (b : List Byte) : (buildData b s).totalSize = s.totalSize := rfl
@[simp] theorem buildData_bytesRead (s : State) (b : List Byte) : (buildData b s).bytesRead = s.bytesRead := rfl
@[simp] theorem buildData_bytesSent (s : State) (b : List Byte) : (buildData b s).bytesSent = s.bytesSent := rfl
@[simp] theorem buildData_seq (s : State) (b : List Byte) : (buildData b s).seq = s.seq := rfl
@[simp] theorem buildData_last (s : State) (b : List Byte) : (buildData b s).last = s.last := rfl
@[simp] theorem buildData_handleOpen (s : State) (b : List Byte) : (buildData b s).handleOpen = s.handleOpen := rfl
@[simp] theorem buildData_mismatch (s : State) (b : List Byte) : (buildData b s).mismatch = s.mismatch := rfl
@[simp] theorem buildData_trace (s : State) (b : List Byte) : (buildData b s).trace = s.trace := rfl
@[simp] theorem buildData_env (s : State) (b : List Byte) : (buildData b s).env = s.env := rfl

/-! ### `buildEnd` -/

@[simp] theorem buildEnd_cfg (s : State) : (buildEnd s).cfg = s.cfg := rfl
@[simp] theorem buildEnd_st (s : State) : (buildEnd s).st = s.st := rfl
@[simp] theorem buildEnd_ph (s : State) : (buildEnd s).ph = s.ph := rfl
@[simp] theorem buildEnd_err (s : State) : (buildEnd s).err = s.err := rfl
@[simp] theorem buildEnd_tx (s : State) : (buildEnd s).tx = Memory.ofBytes (endFrame s.cfg) := rfl
@[simp] theorem buildEnd_rx (s : State) : (buildEnd s).rx = s.rx := rfl
@[simp] theorem buildEnd_totalSize (s : State) : (buildEnd s).totalSize = s.totalSize := rfl
@[simp] theorem buildEnd_bytesRead (s : State) : (buildEnd s).bytesRead = s.bytesRead := rfl
@[simp] theorem buildEnd_bytesSent (s : State) : (buildEnd s).bytesSent = s.bytesSent := rfl
@[simp] theorem buildEnd_seq (s : State) : (buildEnd s).seq = s.seq := rfl
@[simp] theorem buildEnd_last (s : State) : (buildEnd s).last = s.last := rfl
@[simp] theorem buildEnd_handleOpen (s : State) : (buildEnd s).handleOpen = s.handleOpen := rfl
@[simp] theorem buildEnd_mismatch (s : State) : (buildEnd s).mismatch = s.mismatch := rfl
@[simp] theorem buildEnd_trace (s : State) : (buildEnd s).trace = s.trace := rfl
@[simp] theorem buildEnd_env (s : State) : (buildEnd s).env = s.env := rfl

/-! ### `fail` -/

@[simp] theorem State.fail_cfg (s : State) (code : ErrCode) : (s.fail code).cfg = s.cfg := by unfold State.fail; split <;> rfl
@[simp] theorem State.fail_st (s : State) (code : ErrCode) : (s.fail code).st = Session.failed := by unfold State.fail; split <;> rfl
@[simp] theorem State.fail_ph (s : State) (code : ErrCode) : (s.fail code).ph = if s.handleOpen then Phase.close else Phase.halt := by unfold State.fail; split <;> simp_all
@[simp] theorem State.fail_err (s : State) (code : ErrCode) : (s.fail code).err = code := by unfold State.fail; split <;> rfl
@[simp] theorem State.fail_tx (s : State) (code : ErrCode) : (s.fail code).tx = s.tx := by unfold State.fail; split <;> rfl
@[simp] theorem State.fail_rx (s : State) (code : ErrCode) : (s.fail code).rx = s.rx := by unfold State.fail; split <;> rfl
@[simp] theorem State.fail_totalSize (s : State) (code : ErrCode) : (s.fail code).totalSize = s.totalSize := by unfold State.fail; split <;> rfl
@[simp] theorem State.fail_bytesRead (s : State) (code : ErrCode) : (s.fail code).bytesRead = s.bytesRead := by unfold State.fail; split <;> rfl
@[simp] theorem State.fail_bytesSent (s : State) (code : ErrCode) : (s.fail code).bytesSent = s.bytesSent := by unfold State.fail; split <;> rfl
@[simp] theorem State.fail_seq (s : State) (code : ErrCode) : (s.fail code).seq = s.seq := by unfold State.fail; split <;> rfl
@[simp] theorem State.fail_last (s : State) (code : ErrCode) : (s.fail code).last = s.last := by unfold State.fail; split <;> rfl
@[simp] theorem State.fail_handleOpen (s : State) (code : ErrCode) : (s.fail code).handleOpen = s.handleOpen := by unfold State.fail; split <;> rfl
@[simp] theorem State.fail_mismatch (s : State) (code : ErrCode) : (s.fail code).mismatch = s.mismatch := by unfold State.fail; split <;> rfl
@[simp] theorem State.fail_trace (s : State) (code : ErrCode) : (s.fail code).trace = s.trace := by unfold State.fail; split <;> rfl
@[simp] theorem State.fail_env (s : State) (code : ErrCode) : (s.fail code).env = s.env := by unfold State.fail; split <;> rfl

/-! ### `receive` -/

@[simp] theorem State.receive_cfg (s : State) (a : BusAnswer) : (s.receive a).cfg = s.cfg := by cases a <;> rfl
@[simp] theorem State.receive_st (s : State) (a : BusAnswer) : (s.receive a).st = s.st := by cases a <;> rfl
@[simp] theorem State.receive_ph (s : State) (a : BusAnswer) : (s.receive a).ph = s.ph := by cases a <;> rfl
@[simp] theorem State.receive_err (s : State) (a : BusAnswer) : (s.receive a).err = s.err := by cases a <;> rfl
@[simp] theorem State.receive_tx (s : State) (a : BusAnswer) : (s.receive a).tx = s.tx := by cases a <;> rfl
@[simp] theorem State.receive_totalSize (s : State) (a : BusAnswer) : (s.receive a).totalSize = s.totalSize := by cases a <;> rfl
@[simp] theorem State.receive_bytesRead (s : State) (a : BusAnswer) : (s.receive a).bytesRead = s.bytesRead := by cases a <;> rfl
@[simp] theorem State.receive_bytesSent (s : State) (a : BusAnswer) : (s.receive a).bytesSent = s.bytesSent := by cases a <;> rfl
@[simp] theorem State.receive_seq (s : State) (a : BusAnswer) : (s.receive a).seq = s.seq := by cases a <;> rfl
@[simp] theorem State.receive_last (s : State) (a : BusAnswer) : (s.receive a).last = s.last := by cases a <;> rfl
@[simp] theorem State.receive_handleOpen (s : State) (a : BusAnswer) : (s.receive a).handleOpen = s.handleOpen := by cases a <;> rfl
@[simp] theorem State.receive_mismatch (s : State) (a : BusAnswer) : (s.receive a).mismatch = s.mismatch := by cases a <;> rfl
@[simp] theorem State.receive_trace (s : State) (a : BusAnswer) : (s.receive a).trace = s.trace := by cases a <;> rfl

/-! ### `applyReset` -/

@[simp] theorem State.applyReset_cfg (s : State) : (s.applyReset).cfg = s.cfg := rfl
@[simp] theorem State.applyReset_st (s : State) : (s.applyReset).st = .idle := rfl
@[simp] theorem State.applyReset_ph (s : State) : (s.applyReset).ph = .halt := rfl
@[simp] theorem State.applyReset_err (s : State) : (s.applyReset).err = .none := rfl
@[simp] theorem State.applyReset_tx (s : State) : (s.applyReset).tx = [] := rfl
@[simp] theorem State.applyReset_rx (s : State) : (s.applyReset).rx = [] := rfl
@[simp] theorem State.applyReset_totalSize (s : State) : (s.applyReset).totalSize = 0 := rfl
@[simp] theorem State.applyReset_bytesRead (s : State) : (s.applyReset).bytesRead = 0 := rfl
@[simp] theorem State.applyReset_bytesSent (s : State) : (s.applyReset).bytesSent = 0 := rfl
@[simp] theorem State.applyReset_seq (s : State) : (s.applyReset).seq = 0 := rfl
@[simp] theorem State.applyReset_last (s : State) : (s.applyReset).last = false := rfl
@[simp] theorem State.applyReset_handleOpen (s : State) : (s.applyReset).handleOpen = false := rfl
@[simp] theorem State.applyReset_mismatch (s : State) : (s.applyReset).mismatch = false := rfl
@[simp] theorem State.applyReset_trace (s : State) : (s.applyReset).trace = [] := rfl
@[simp] theorem State.applyReset_env (s : State) : (s.applyReset).env = s.env := rfl

/-! ### `receive`, by answer -/

@[simp] theorem State.receive_ok (s : State) (rb : List Byte) : s.receive (.ok rb) = s.storeRx rb := rfl
@[simp] theorem State.receive_fault (s : State) :
    s.receive .fault = { s with env := s.env.drawn, rx := Memory.ofBytes (drawBytes s.cfg s.env.draws) } := rfl

/-! ### `boot` -/

@[simp] theorem State.boot_cfg (c : Config) (e : Env) : (State.boot c e).cfg = c := rfl
@[simp] theorem State.boot_env (c : Config) (e : Env) : (State.boot c e).env = e := rfl
@[simp] theorem State.boot_st (c : Config) (e : Env) : (State.boot c e).st = .idle := rfl
@[simp] theorem State.boot_ph (c : Config) (e : Env) : (State.boot c e).ph = .halt := rfl
@[simp] theorem State.boot_trace (c : Config) (e : Env) : (State.boot c e).trace = [] := rfl

end Sys2Proof.Machine
end

