-- ==== Sys2Proof/Laws/Ops.lean ====
section
/-! SUPPORT. For each shared operation, once, everything it can answer; and the one inversion lemma of a step. Later proofs
cite these and unfold nothing. -/

namespace Sys2Proof.Machine

/-! ### Chaining -/

theorem andThen_eq_next {α β : Type} {o : Host.Outcome α Fault Refusal} {f : α → Host.Outcome β Fault Refusal} {b : β} :
    andThen o f = .next b ↔ ∃ a, o = .next a ∧ f a = .next b := by
  cases o <;> simp [andThen]

@[simp] theorem andThen_next {α β : Type} (a : α) (f : α → Host.Outcome β Fault Refusal) :
    andThen (.next a) f = f a := rfl

@[simp] theorem State.isAt_iff (s : State) (st : Session) (ph : Phase) : s.isAt st ph = true ↔ s.st = st ∧ s.ph = ph := by
  simp [State.isAt]

/-! ### Free values meet the contract -/

theorem length_drawBytes (c : Config) (k : Nat) : (drawBytes c k).length = c.frameSize := by
  simp [drawBytes]

theorem drawOpen_meets (c : Config) (k : Nat) : (drawOpen c k).meets c = true := by
  unfold drawOpen
  split
  · rfl
  · simpa [OpenAnswer.meets] using Nat.mod_lt _ (Nat.two_pow_pos _)

theorem drawRead_meets (n k : Nat) : (drawRead n k).meets n = true := by
  unfold drawRead
  split
  · rfl
  · simp [ReadAnswer.meets]

theorem drawBus_meets (c : Config) (k : Nat) : (drawBus c k).meets c = true := by
  unfold drawBus
  split <;> simp [BusAnswer.meets, length_drawBytes]

/-! ### The buffers -/

theorem readTx_eq_next {s : State} {bytes : List Byte} :
    readTx s = .next bytes ↔ Memory.run s.tx 0 s.cfg.frameSize = some bytes := by
  unfold readTx
  split <;> simp_all

/-- What was written whole is read whole. -/
theorem readTx_ofBytes {s : State} {bytes : List Byte} (h : s.tx = Memory.ofBytes bytes)
    (hl : bytes.length = s.cfg.frameSize) : readTx s = .next bytes :=
  readTx_eq_next.mpr (h ▸ Memory.run_ofBytes hl)

theorem readRx_ofBytes {s : State} {bytes : List Byte} {i : Nat} {b : Byte} (h : s.rx = Memory.ofBytes bytes)
    (hb : bytes[i]? = some b) : readRx s i = .next b := by
  simp [readRx, h, hb]

theorem readRx_eq_next {s : State} {i : Nat} {b : Byte} : readRx s i = .next b ↔ Memory.read s.rx i = some b := by
  unfold readRx
  split <;> simp_all

/-! ### The collaborator primitives -/

theorem srcOpen_eq_next {s : State} {r : OpenAnswer × State} : srcOpen s = .next r ↔
    (openNow s).meets s.cfg = true ∧
    r = (openNow s, { s with env := s.env.usedOpen }.record (.srcOpen s.cfg.sourceName (openNow s))) := by
  unfold srcOpen
  split
  next h => exact ⟨fun e => ⟨h, (Host.Outcome.next.inj e).symm⟩, fun e => congrArg _ e.2.symm⟩
  next h => exact ⟨fun e => by simp at e, fun e => absurd e.1 h⟩

theorem srcRead_eq_next {n : Nat} {s : State} {r : ReadAnswer × State} : srcRead n s = .next r ↔
    (readNow n s).meets n = true ∧
    r = (readNow n s, { s with env := s.env.usedRead }.record (.srcRead n (readNow n s))) := by
  unfold srcRead
  split
  next h => exact ⟨fun e => ⟨h, (Host.Outcome.next.inj e).symm⟩, fun e => congrArg _ e.2.symm⟩
  next h => exact ⟨fun e => by simp at e, fun e => absurd e.1 h⟩

/-- The state a transaction leaves, whatever it answers. -/
def afterTransact (s : State) (bytes : List Byte) : State :=
  ({ s with env := s.env.usedBus }.record (.transact bytes s.cfg.busBits (busNow s))).receive (busNow s)

theorem transact_eq_next {s : State} {r : List Byte × BusAnswer × State} : transact s = .next r ↔
    ∃ bytes, readTx s = .next bytes ∧ (busNow s).meets s.cfg = true ∧ r = (bytes, busNow s, afterTransact s bytes) := by
  unfold transact
  rw [andThen_eq_next]
  constructor
  · rintro ⟨bytes, hb, h⟩
    split at h
    · exact ⟨bytes, hb, ‹_›, by simpa [eq_comm, afterTransact] using h⟩
    · simp at h
  · rintro ⟨bytes, hb, hm, rfl⟩
    exact ⟨bytes, hb, by simp [hm, afterTransact]⟩

/-- The fields a transaction leaves: only `rx`, the observation and the environment change. -/
theorem afterTransact_eq (s : State) (bytes : List Byte) :
    afterTransact s bytes =
      { s with rx := (afterTransact s bytes).rx, env := (afterTransact s bytes).env,
               trace := s.trace ++ [.transact bytes s.cfg.busBits (busNow s)] } := by
  unfold afterTransact
  cases busNow s <;> rfl

/-- A reply in `rx` (R30). -/
theorem afterTransact_ok {s : State} {bytes rb : List Byte} (h : busNow s = .ok rb) :
    afterTransact s bytes =
      { s with rx := Memory.ofBytes rb, env := s.env.usedBus,
               trace := s.trace ++ [.transact bytes s.cfg.busBits (.ok rb)] } := by
  simp [afterTransact, h, State.storeRx, State.record]

/-- A draw in `rx` after a `BusFault` (R30). -/
theorem afterTransact_fault {s : State} {bytes : List Byte} (h : busNow s = .fault) :
    afterTransact s bytes =
      { s with rx := Memory.ofBytes (drawBytes s.cfg s.env.usedBus.draws), env := s.env.usedBus.drawn,
               trace := s.trace ++ [.transact bytes s.cfg.busBits .fault] } := by
  simp [afterTransact, h, State.record]

/-! ### The Frame Builder's stream operations -/

theorem opOpen_eq_next {s : State} {r : OpenResult × State} : opOpen s = .next r ↔
    (openNow s = .notFound ∧
      r = (.notFound, { s with env := s.env.usedOpen, trace := s.trace ++ [.srcOpen s.cfg.sourceName .notFound] })) ∨
    (∃ size, openNow s = .ok size ∧ size < 2 ^ s.cfg.cntW ∧
      r = (.ok, { s with env := s.env.usedOpen, trace := s.trace ++ [.srcOpen s.cfg.sourceName (.ok size)],
                         totalSize := size, bytesRead := 0 })) := by
  unfold opOpen
  rw [andThen_eq_next]
  simp only [srcOpen_eq_next]
  constructor
  · rintro ⟨a, ⟨hm, rfl⟩, h⟩
    cases ho : openNow s with
    | notFound => exact .inl ⟨rfl, by simpa [ho, State.record, eq_comm] using h⟩
    | ok size =>
      have hs : size < 2 ^ s.cfg.cntW := by simpa [ho, OpenAnswer.meets] using hm
      exact .inr ⟨size, rfl, hs, by simpa [ho, State.record, eq_comm, Nat.mod_eq_of_lt hs] using h⟩
  · rintro (⟨ho, rfl⟩ | ⟨size, ho, hs, rfl⟩)
    · exact ⟨_, ⟨by simp [ho, OpenAnswer.meets], rfl⟩, by simp [ho, State.record]⟩
    · exact ⟨_, ⟨by simp [ho, OpenAnswer.meets, hs], rfl⟩, by simp [ho, State.record, Nat.mod_eq_of_lt hs]⟩

theorem opRead_eq_next {n : Nat} {s : State} {r : ReadResult × State} : opRead n s = .next r ↔
    (readNow n s = .readError ∧
      r = (.readError, { s with env := s.env.usedRead, trace := s.trace ++ [.srcRead n .readError] })) ∨
    (∃ count b, readNow n s = .chunk count b ∧ count ≤ n ∧ b.length = count ∧
      r = (if count = 0 then .empty else .data b,
        { s with env := s.env.usedRead, trace := s.trace ++ [.srcRead n (.chunk count b)],
                 bytesRead := addW s.cfg s.bytesRead count })) := by
  unfold opRead
  rw [andThen_eq_next]
  simp only [srcRead_eq_next]
  constructor
  · rintro ⟨a, ⟨hm, rfl⟩, h⟩
    cases hr : readNow n s with
    | readError => exact .inl ⟨rfl, by simpa [hr, State.record, eq_comm] using h⟩
    | chunk count b =>
      have hs : count ≤ n ∧ b.length = count := by simpa [hr, ReadAnswer.meets] using hm
      exact .inr ⟨count, b, rfl, hs.1, hs.2, by simpa [hr, State.record, eq_comm] using h⟩
  · rintro (⟨hr, rfl⟩ | ⟨count, b, hr, hc, hb, rfl⟩)
    · exact ⟨_, ⟨by simp [hr, ReadAnswer.meets], rfl⟩, by simp [hr, State.record]⟩
    · exact ⟨_, ⟨by simp [hr, ReadAnswer.meets, hc, hb], rfl⟩, by simp [hr, State.record]⟩

/-! ### The step -/

/-- Everything a step that goes on can do (R100, R110, R111, R134). -/
theorem advance_cases {s t : State} (h : advance s = .next t) : s.cfg.valid = true ∧
    (((hostNow s).reset = true ∧ t = State.boot s.cfg s.takeHost.env) ∨
     ((hostNow s).reset = false ∧ t = s.takeHost ∧
       ((s.st = .idle ∧ s.ph = .halt ∧ (hostNow s).request = false) ∨
        (s.ph = .halt ∧ (s.st = .completed ∨ s.st = .failed)))) ∨
     ((hostNow s).reset = false ∧ ∃ i, decodePoint s.st s.ph = .ok i ∧
       (i = .opRequest → (hostNow s).request = true) ∧ exec i s.takeHost = .next t)) := by
  unfold advance selected at h
  split at h
  next hv =>
    refine ⟨hv, ?_⟩
    split at h
    next hr =>
      cases h
      exact .inl ⟨hr, rfl⟩
    next hr =>
      have hr' : (hostNow s).reset = false := by simpa using hr
      rw [decodeControl_controlWord] at h
      split at h
      next hd =>
        split at h
        next hq => exact .inr (.inr ⟨hr', _, hd, fun _ => hq, h⟩)
        next hq =>
          cases h
          refine .inr (.inl ⟨hr', rfl, .inl ?_⟩)
          revert hd
          cases s.st <;> cases s.ph <;> simp_all [decodePoint]
      next i hne hd => exact .inr (.inr ⟨hr', i, hd, fun hi => absurd hi hne, h⟩)
      next hd =>
        cases h
        refine .inr (.inl ⟨hr', rfl, .inr ?_⟩)
        revert hd
        cases s.st <;> cases s.ph <;> simp [decodePoint]
      next => cases h
  next => cases h

end Sys2Proof.Machine
end

