-- ==== Sys2Proof/Laws/Exec.lean ====
section
/-! SUPPORT. One inversion lemma per meaning: if an instruction answers a next state, then one of these cases holds. The
invariants are derived from them, and no proof unfolds a meaning. -/

namespace Sys2Proof.Machine

/-! ### The transactions -/

theorem transactStart_next {s t : State} (h : transactStart s = .next t) : ∃ bytes, readTx s = .next bytes ∧
    ((busNow s = .fault ∧ t = (afterTransact s bytes).fail .busFault) ∨
     ∃ rb ack, busNow s = .ok rb ∧ rb.length = s.cfg.frameSize ∧ rb[s.cfg.ackIndex]? = some ack ∧
      ((ack ≠ 0 ∧ t = (afterTransact s bytes).goto .xfer .fetch) ∨
       (ack = 0 ∧ t = (buildStart (afterTransact s bytes)).goto .await .wait))) := by
  unfold transactStart at h
  obtain ⟨r, hr, h⟩ := andThen_eq_next.mp h
  obtain ⟨bytes, hb, hm, rfl⟩ := transact_eq_next.mp hr
  refine ⟨bytes, hb, ?_⟩
  cases hn : busNow s with
  | fault =>
    simp only [hn] at h
    cases h
    exact .inl ⟨rfl, rfl⟩
  | ok rb =>
    simp only [hn] at h
    obtain ⟨ack, ha, h⟩ := andThen_eq_next.mp h
    rw [readRx_eq_next, afterTransact_ok hn] at ha
    have hl : rb.length = s.cfg.frameSize := by simpa [hn, BusAnswer.meets] using hm
    refine .inr ⟨rb, ack, rfl, hl, by simpa using ha, ?_⟩
    split at h
    next ha => cases h; exact .inl ⟨ha, rfl⟩
    next ha => cases h; exact .inr ⟨by simpa using ha, rfl⟩

theorem transactData_next {s t : State} (h : transactData s = .next t) : ∃ bytes, readTx s = .next bytes ∧
    ((busNow s = .fault ∧ t = (afterTransact s bytes).fail .busFault) ∨
     ∃ rb, busNow s = .ok rb ∧ rb.length = s.cfg.frameSize ∧
      ((s.last = true ∧
          t = (buildEnd ((afterTransact s bytes).countSent (lengthField bytes))).goto .compl .wait) ∨
       (s.last = false ∧ t = ((afterTransact s bytes).countSent (lengthField bytes)).goto .xfer .fetch))) := by
  unfold transactData at h
  obtain ⟨r, hr, h⟩ := andThen_eq_next.mp h
  obtain ⟨bytes, hb, hm, rfl⟩ := transact_eq_next.mp hr
  refine ⟨bytes, hb, ?_⟩
  cases hn : busNow s with
  | fault =>
    simp only [hn] at h
    cases h
    exact .inl ⟨rfl, rfl⟩
  | ok rb =>
    simp only [hn] at h
    have hl : rb.length = s.cfg.frameSize := by simpa [hn, BusAnswer.meets] using hm
    refine .inr ⟨rb, rfl, hl, ?_⟩
    split at h
    next hl => cases h; exact .inl ⟨hl, rfl⟩
    next hl => cases h; exact .inr ⟨by simpa using hl, rfl⟩

theorem transactEnd_next {s t : State} (h : transactEnd s = .next t) : ∃ bytes, readTx s = .next bytes ∧
    ((busNow s = .fault ∧ t = (afterTransact s bytes).fail .busFault) ∨
     ∃ rb, busNow s = .ok rb ∧ rb.length = s.cfg.frameSize ∧ t = (afterTransact s bytes).goto .completed .close) := by
  unfold transactEnd at h
  obtain ⟨r, hr, h⟩ := andThen_eq_next.mp h
  obtain ⟨bytes, hb, hm, rfl⟩ := transact_eq_next.mp hr
  refine ⟨bytes, hb, ?_⟩
  cases hn : busNow s with
  | fault =>
    simp only [hn] at h
    cases h
    exact .inl ⟨rfl, rfl⟩
  | ok rb =>
    simp only [hn] at h
    cases h
    exact .inr ⟨rb, rfl, by simpa [hn, BusAnswer.meets] using hm, rfl⟩

/-! ### The Sequencer -/

theorem execOpRequest_next {s t : State} (h : exec .opRequest s = .next t) :
    (¬(s.st = .idle ∧ s.ph = .halt) ∧ t = s) ∨
    (s.st = .idle ∧ s.ph = .halt ∧
      ((openNow s = .notFound ∧
          t = ({ s with env := s.env.usedOpen, trace := s.trace ++ [.srcOpen s.cfg.sourceName .notFound] } : State).fail
            .notFound) ∨
       ∃ size, openNow s = .ok size ∧ size < 2 ^ s.cfg.cntW ∧
          t = { s with st := .await, ph := .wait, tx := Memory.ofBytes (startFrame s.cfg), totalSize := size,
                       bytesRead := 0, bytesSent := 0, seq := 0, handleOpen := true, env := s.env.usedOpen,
                       trace := s.trace ++ [.srcOpen s.cfg.sourceName (.ok size)] })) := by
  change execOpRequest s = .next t at h
  unfold execOpRequest at h
  split at h
  next ha =>
    obtain ⟨hst, hph⟩ := (State.isAt_iff ..).mp ha
    obtain ⟨r, hr, h⟩ := andThen_eq_next.mp h
    refine .inr ⟨hst, hph, ?_⟩
    rcases opOpen_eq_next.mp hr with ⟨ho, rfl⟩ | ⟨size, ho, hs, rfl⟩
    · cases h
      exact .inl ⟨ho, rfl⟩
    · cases h
      exact .inr ⟨size, ho, hs, rfl⟩
  next ha =>
    cases h
    exact .inl ⟨fun hc => ha ((State.isAt_iff ..).mpr hc), rfl⟩

theorem execOpPoll_next {st : Session} {s t : State} (h : exec (.opPoll st) s = .next t) :
    (st = .await ∨ st = .xfer ∨ st = .compl) ∧ s.st = st ∧ s.ph = .wait ∧
    t = { s with ph := if sampleNow s then .issue else .wait, env := s.env.usedReady,
                 trace := s.trace ++ [.ready (sampleNow s)] } := by
  change execOpPoll st s = .next t at h
  unfold execOpPoll at h
  split at h
  next ha =>
    simp only [Bool.and_eq_true, State.isAt_iff, Instr.wellFormed, decide_eq_true_eq] at ha
    obtain ⟨hw, rfl, hph⟩ := ha
    cases h
    exact ⟨hw, rfl, hph, rfl⟩
  next => cases h

theorem execOpXactStart_next {s t : State} (h : exec .opXactStart s = .next t) :
    s.st = .await ∧ s.ph = .issue ∧ transactStart s = .next t := by
  change execOpXactStart s = .next t at h
  unfold execOpXactStart at h
  split at h
  next ha => exact ⟨((State.isAt_iff ..).mp ha).1, ((State.isAt_iff ..).mp ha).2, h⟩
  next => cases h

theorem execOpXactData_next {s t : State} (h : exec .opXactData s = .next t) :
    s.st = .xfer ∧ s.ph = .issue ∧ transactData s = .next t := by
  change execOpXactData s = .next t at h
  unfold execOpXactData at h
  split at h
  next ha => exact ⟨((State.isAt_iff ..).mp ha).1, ((State.isAt_iff ..).mp ha).2, h⟩
  next => cases h

theorem execOpXactEnd_next {s t : State} (h : exec .opXactEnd s = .next t) :
    s.st = .compl ∧ s.ph = .issue ∧ transactEnd s = .next t := by
  change execOpXactEnd s = .next t at h
  unfold execOpXactEnd at h
  split at h
  next ha => exact ⟨((State.isAt_iff ..).mp ha).1, ((State.isAt_iff ..).mp ha).2, h⟩
  next => cases h

theorem execOpFetch_next {s t : State} (h : exec .opFetch s = .next t) : s.st = .xfer ∧ s.ph = .fetch ∧
    ((readNow s.cfg.chunkCap s = .readError ∧
        t = ({ s with env := s.env.usedRead,
                      trace := s.trace ++ [.srcRead s.cfg.chunkCap .readError] } : State).fail .readError) ∨
     (∃ b, readNow s.cfg.chunkCap s = .chunk 0 b ∧ b = [] ∧
        t = { s with st := .compl, ph := .wait, last := true, tx := Memory.ofBytes (endFrame s.cfg),
                     bytesRead := addW s.cfg s.bytesRead 0, env := s.env.usedRead,
                     trace := s.trace ++ [.srcRead s.cfg.chunkCap (.chunk 0 b)] }) ∨
     (∃ b, readNow s.cfg.chunkCap s = .chunk b.length b ∧ 1 ≤ b.length ∧ b.length ≤ s.cfg.chunkCap ∧
        t = { s with st := .xfer, ph := .wait, last := lastFlag s.cfg b.length,
                     tx := Memory.ofBytes (dataFrame s.cfg b),
                     bytesRead := addW s.cfg s.bytesRead b.length, env := s.env.usedRead,
                     trace := s.trace ++ [.srcRead s.cfg.chunkCap (.chunk b.length b)] })) := by
  change execOpFetch s = .next t at h
  unfold execOpFetch at h
  split at h
  next ha =>
    obtain ⟨hst, hph⟩ := (State.isAt_iff ..).mp ha
    obtain ⟨r, hr, h⟩ := andThen_eq_next.mp h
    refine ⟨hst, hph, ?_⟩
    rcases opRead_eq_next.mp hr with ⟨hn, rfl⟩ | ⟨count, b, hn, hc, rfl, rfl⟩
    · cases h
      exact .inl ⟨hn, rfl⟩
    · by_cases h0 : b.length = 0
      · simp only [h0] at h
        cases h
        exact .inr (.inl ⟨b, h0 ▸ hn, List.length_eq_zero_iff.mp h0, by simp [State.goto, buildEnd, State.storeTx]⟩)
      · simp only [h0] at h
        cases h
        exact .inr (.inr ⟨b, hn, by omega, hc, rfl⟩)
  next => cases h

theorem execOpClose_next {st : Session} {s t : State} (h : exec (.opClose st) s = .next t) :
    (st = .completed ∨ st = .failed) ∧ s.st = st ∧ s.ph = .close ∧
    t = { s with ph := .halt, handleOpen := false, mismatch := mismatchFlag s.bytesSent s.totalSize,
                 trace := s.trace ++ (if s.handleOpen then [.srcClose] else []) } := by
  change execOpClose st s = .next t at h
  unfold execOpClose at h
  split at h
  next ha =>
    simp only [Bool.and_eq_true, State.isAt_iff, Instr.wellFormed, decide_eq_true_eq] at ha
    obtain ⟨hw, rfl, hph⟩ := ha
    refine ⟨hw, rfl, hph, ?_⟩
    obtain ⟨cfg, st, ph, err, tx, rx, total, read, sent, seq, last, held, mismatch, trace, env⟩ := s
    cases held <;> cases h <;> simp [State.goto, opSrcClose, srcClose, State.record]
  next => cases h

/-! ### The frames: their transaction, on the frame in `tx` -/

theorem execFrameStart_next {s t : State} (h : exec .frameStart s = .next t) :
    s.st = .await ∧ s.ph = .issue ∧ transactStart (buildStart s) = .next t := by
  change execFrameStart s = .next t at h
  unfold execFrameStart at h
  split at h
  next ha => exact ⟨((State.isAt_iff ..).mp ha).1, ((State.isAt_iff ..).mp ha).2, h⟩
  next => cases h

theorem execFrameData_next {chunk : List Byte} {s t : State} (h : exec (.frameData chunk) s = .next t) :
    s.st = .xfer ∧ s.ph = .issue ∧ chunkOk s.cfg chunk = true ∧ transactData (buildData chunk s) = .next t := by
  change execFrameData chunk s = .next t at h
  unfold execFrameData at h
  split at h
  next ha =>
    split at h
    next hc => exact ⟨((State.isAt_iff ..).mp ha).1, ((State.isAt_iff ..).mp ha).2, hc, h⟩
    next => cases h
  next => cases h

theorem execFrameEnd_next {s t : State} (h : exec .frameEnd s = .next t) :
    s.st = .compl ∧ s.ph = .issue ∧ transactEnd (buildEnd s) = .next t := by
  change execFrameEnd s = .next t at h
  unfold execFrameEnd at h
  split at h
  next ha => exact ⟨((State.isAt_iff ..).mp ha).1, ((State.isAt_iff ..).mp ha).2, h⟩
  next => cases h

/-! ### The Frame Builder -/

theorem execOpOpen_next {s t : State} (h : exec .opOpen s = .next t) :
    (openNow s = .notFound ∧
      t = { s with env := s.env.usedOpen, trace := s.trace ++ [.srcOpen s.cfg.sourceName .notFound] }) ∨
    (∃ size, openNow s = .ok size ∧ size < 2 ^ s.cfg.cntW ∧
      t = { s with totalSize := size, bytesRead := 0, env := s.env.usedOpen,
                   trace := s.trace ++ [.srcOpen s.cfg.sourceName (.ok size)] }) := by
  obtain ⟨r, hr, h⟩ := andThen_eq_next.mp (show execOpOpen s = .next t from h)
  rcases opOpen_eq_next.mp hr with ⟨ho, rfl⟩ | ⟨size, ho, hs, rfl⟩
  · cases h; exact .inl ⟨ho, rfl⟩
  · cases h; exact .inr ⟨size, ho, hs, rfl⟩

theorem execOpRead_next {n : Nat} {s t : State} (h : exec (.opRead n) s = .next t) :
    (readNow n s = .readError ∧
      t = { s with env := s.env.usedRead, trace := s.trace ++ [.srcRead n .readError] }) ∨
    (∃ count b, readNow n s = .chunk count b ∧ count ≤ n ∧ b.length = count ∧
      t = { s with bytesRead := addW s.cfg s.bytesRead count, env := s.env.usedRead,
                   trace := s.trace ++ [.srcRead n (.chunk count b)] }) := by
  obtain ⟨r, hr, h⟩ := andThen_eq_next.mp (show execOpRead n s = .next t from h)
  rcases opRead_eq_next.mp hr with ⟨hn, rfl⟩ | ⟨count, b, hn, hc, hb, rfl⟩
  · cases h; exact .inl ⟨hn, rfl⟩
  · cases h; exact .inr ⟨count, b, hn, hc, hb, rfl⟩

theorem execOpBuildData_next {b : List Byte} {s t : State} (h : exec (.opBuildData b) s = .next t) :
    chunkOk s.cfg b = true ∧ t = { s with tx := Memory.ofBytes (dataFrame s.cfg b) } := by
  change execOpBuildData b s = .next t at h
  unfold execOpBuildData at h
  split at h
  next hc => cases h; exact ⟨hc, rfl⟩
  next => cases h

end Sys2Proof.Machine
end

