-- ==== Sys2Proof/Laws/Observe.lean ====
section
/-! SUPPORT. What one interaction more does to each view of the observation, and how two histories that end in one event split. -/

namespace Sys2Proof.Machine

/-! ### The views of a history with one event more -/

theorem busTrace_append (tr : List Event) (e : Event) : busTrace (tr ++ [e]) = busTrace tr ++ busTrace [e] := by
  simp [busTrace]

theorem deliveredChunks_append (tr : List Event) (e : Event) :
    deliveredChunks (tr ++ [e]) = deliveredChunks tr ++ deliveredChunks [e] := by
  simp [deliveredChunks]

theorem sentChunks_append (c : Config) (tr : List Event) (e : Event) :
    sentChunks c (tr ++ [e]) = sentChunks c tr ++ sentChunks c [e] := by
  simp [sentChunks, busTrace]

theorem unusedSample_append (tr : List Event) (e : Event) :
    unusedSample (tr ++ [e]) =
      match e with
      | .ready b => some b
      | .transact _ _ _ => none
      | .srcOpen _ _ | .srcRead _ _ | .srcClose => unusedSample tr := by
  unfold unusedSample
  rw [List.foldl_append]
  cases e <;> rfl

theorem totalLength_append (a b : List (List Byte)) : totalLength (a ++ b) = totalLength a + totalLength b := by
  simp [totalLength]

/-! ### One event -/

@[simp] theorem busTrace_ready (b : Bool) : busTrace [.ready b] = [] := rfl
@[simp] theorem busTrace_srcOpen (n : String) (a : OpenAnswer) : busTrace [.srcOpen n a] = [] := rfl
@[simp] theorem busTrace_srcRead (n : Nat) (a : ReadAnswer) : busTrace [.srcRead n a] = [] := rfl
@[simp] theorem busTrace_srcClose : busTrace [.srcClose] = [] := rfl
@[simp] theorem busTrace_transact (fr : List Byte) (n : Nat) (a : BusAnswer) : busTrace [.transact fr n a] = [(fr, a)] := rfl

@[simp] theorem deliveredChunks_ready (b : Bool) : deliveredChunks [.ready b] = [] := rfl
@[simp] theorem deliveredChunks_srcOpen (n : String) (a : OpenAnswer) : deliveredChunks [.srcOpen n a] = [] := rfl
@[simp] theorem deliveredChunks_srcClose : deliveredChunks [.srcClose] = [] := rfl
@[simp] theorem deliveredChunks_transact (fr : List Byte) (n : Nat) (a : BusAnswer) :
    deliveredChunks [.transact fr n a] = [] := rfl
@[simp] theorem deliveredChunks_readError (n : Nat) : deliveredChunks [.srcRead n .readError] = [] := rfl
@[simp] theorem deliveredChunks_chunk (n k : Nat) (b : List Byte) :
    deliveredChunks [.srcRead n (.chunk k b)] = if k = 0 then [] else [b] := by
  by_cases h : k = 0 <;> simp [deliveredChunks, h]

@[simp] theorem sentChunks_ready (c : Config) (b : Bool) : sentChunks c [.ready b] = [] := rfl
@[simp] theorem sentChunks_srcOpen (c : Config) (n : String) (a : OpenAnswer) : sentChunks c [.srcOpen n a] = [] := rfl
@[simp] theorem sentChunks_srcRead (c : Config) (n : Nat) (a : ReadAnswer) : sentChunks c [.srcRead n a] = [] := rfl
@[simp] theorem sentChunks_srcClose (c : Config) : sentChunks c [.srcClose] = [] := rfl
@[simp] theorem sentChunks_busFault (c : Config) (fr : List Byte) (n : Nat) :
    sentChunks c [.transact fr n .fault] = [] := rfl

/-- What a transaction that returned `BusOk` adds to the payloads sent, by what `classify` says of its frame. -/
theorem sentChunks_busOk {c : Config} {fr : List Byte} {i : Instr} (h : decodeFrame c fr = .ok i) (n : Nat) (rb : List Byte) :
    sentChunks c [.transact fr n (.ok rb)] =
      match i with
      | .frameData b => [b]
      | _ => [] := by
  cases i <;> simp [sentChunks, h]

/-! ### Frames are told apart -/

theorem dataFrame_inj {c : Config} {x y : List Byte} (hx : x.length ≤ 65535) (hy : y.length ≤ 65535)
    (h : dataFrame c x = dataFrame c y) : x = y := by
  have hl : x.length = y.length := by rw [← lengthField_dataFrame hx, h, lengthField_dataFrame hy]
  simp only [dataFrame, hl, List.append_assoc] at h
  exact List.append_inj_left (List.append_cancel_left h) hl

theorem startFrame_ne_dataFrame {c : Config} (hv : c.valid = true) (b : List Byte) : startFrame c ≠ dataFrame c b := by
  intro h
  have hv := (Config.valid_iff c).mp hv
  simp [startFrame, dataFrame] at h
  exact hv.2.2.2.1 h.1

theorem endFrame_ne_dataFrame {c : Config} (hv : c.valid = true) (b : List Byte) : endFrame c ≠ dataFrame c b := by
  intro h
  have hv := (Config.valid_iff c).mp hv
  simp [endFrame, dataFrame] at h
  exact hv.2.2.2.2.2.1 h.1.symm

theorem startFrame_ne_endFrame {c : Config} (hv : c.valid = true) : startFrame c ≠ endFrame c := by
  intro h
  have hv := (Config.valid_iff c).mp hv
  simp [startFrame, endFrame] at h
  exact hv.2.2.2.2.1 h

/-! ### Splitting a history -/

theorem append_single_split {α : Type} {pre post tr : List α} {x e : α} (h : tr ++ [e] = pre ++ x :: post) :
    (pre = tr ∧ x = e ∧ post = []) ∨ ∃ post', post = post' ++ [e] ∧ tr = pre ++ x :: post' := by
  rcases List.eq_nil_or_concat post with rfl | ⟨post', y, rfl⟩
  · have := List.append_inj' h rfl
    exact .inl ⟨this.1.symm, by simpa using this.2.symm, rfl⟩
  · have h' : tr ++ [e] = (pre ++ x :: post') ++ [y] := by simpa using h
    have := List.append_inj' h' rfl
    simp at this
    exact .inr ⟨post', by simp [this.2], this.1⟩

end Sys2Proof.Machine
end

