-- ==== Sys2Proof/Laws/Step.lean ====
section
/-! SUPPORT. Everything a step can do, case by case with the whole next state: the one fact every invariant is derived from. -/

namespace Sys2Proof.Machine

/-- The cases of a step that goes on, one per way through the pseudocode of R101 to R107, with what each knows of the state
before it and the state after it in full. -/
inductive StepCase (s : State) : State → Prop where
  | reset (h : (hostNow s).reset = true) : StepCase s (State.boot s.cfg s.takeHost.env)
  | waiting (h : (hostNow s).reset = false) (hst : s.st = .idle) (hph : s.ph = .halt) : StepCase s s.takeHost
  | halted (h : (hostNow s).reset = false) (hst : s.st = .completed ∨ s.st = .failed) (hph : s.ph = .halt) :
      StepCase s s.takeHost
  | requestNotFound (h : (hostNow s).reset = false) (hst : s.st = .idle) (hph : s.ph = .halt)
      (ho : openNow s.takeHost = .notFound) :
      StepCase s (({ s with env := s.takeHost.env.usedOpen,
                            trace := s.trace ++ [.srcOpen s.cfg.sourceName .notFound] } : State).fail .notFound)
  | requestOk (h : (hostNow s).reset = false) (hst : s.st = .idle) (hph : s.ph = .halt) (size : Nat)
      (ho : openNow s.takeHost = .ok size) (hs : size < 2 ^ s.cfg.cntW) :
      StepCase s { s with st := .await, ph := .wait, tx := Memory.ofBytes (startFrame s.cfg), totalSize := size,
                          bytesRead := 0, bytesSent := 0, seq := 0, handleOpen := true,
                          env := s.takeHost.env.usedOpen,
                          trace := s.trace ++ [.srcOpen s.cfg.sourceName (.ok size)] }
  | poll (h : (hostNow s).reset = false) (hst : s.st = .await ∨ s.st = .xfer ∨ s.st = .compl) (hph : s.ph = .wait) :
      StepCase s { s with ph := if sampleNow s.takeHost then .issue else .wait, env := s.takeHost.env.usedReady,
                          trace := s.trace ++ [.ready (sampleNow s.takeHost)] }
  | busFault (h : (hostNow s).reset = false) (hst : s.st = .await ∨ s.st = .xfer ∨ s.st = .compl) (hph : s.ph = .issue)
      (bytes : List Byte) (hb : readTx s = .next bytes) (hn : busNow s.takeHost = .fault) :
      StepCase s (({ s with rx := Memory.ofBytes (drawBytes s.cfg s.takeHost.env.usedBus.draws),
                            env := s.takeHost.env.usedBus.drawn,
                            trace := s.trace ++ [.transact bytes s.cfg.busBits .fault] } : State).fail .busFault)
  | startAck (h : (hostNow s).reset = false) (hst : s.st = .await) (hph : s.ph = .issue) (bytes rb : List Byte) (ack : Byte)
      (hb : readTx s = .next bytes) (hn : busNow s.takeHost = .ok rb) (hl : rb.length = s.cfg.frameSize)
      (hack : rb[s.cfg.ackIndex]? = some ack) (hne : ack ≠ 0) :
      StepCase s { s with st := .xfer, ph := .fetch, rx := Memory.ofBytes rb, env := s.takeHost.env.usedBus,
                          trace := s.trace ++ [.transact bytes s.cfg.busBits (.ok rb)] }
  | startNack (h : (hostNow s).reset = false) (hst : s.st = .await) (hph : s.ph = .issue) (bytes rb : List Byte)
      (hb : readTx s = .next bytes) (hn : busNow s.takeHost = .ok rb) (hl : rb.length = s.cfg.frameSize)
      (hack : rb[s.cfg.ackIndex]? = some 0) :
      StepCase s { s with st := .await, ph := .wait, tx := Memory.ofBytes (startFrame s.cfg), rx := Memory.ofBytes rb,
                          env := s.takeHost.env.usedBus,
                          trace := s.trace ++ [.transact bytes s.cfg.busBits (.ok rb)] }
  | fetchError (h : (hostNow s).reset = false) (hst : s.st = .xfer) (hph : s.ph = .fetch)
      (hr : readNow s.cfg.chunkCap s.takeHost = .readError) :
      StepCase s (({ s with env := s.takeHost.env.usedRead,
                            trace := s.trace ++ [.srcRead s.cfg.chunkCap .readError] } : State).fail .readError)
  | fetchEmpty (h : (hostNow s).reset = false) (hst : s.st = .xfer) (hph : s.ph = .fetch)
      (hr : readNow s.cfg.chunkCap s.takeHost = .chunk 0 []) :
      StepCase s { s with st := .compl, ph := .wait, last := true, tx := Memory.ofBytes (endFrame s.cfg),
                          bytesRead := addW s.cfg s.bytesRead 0, env := s.takeHost.env.usedRead,
                          trace := s.trace ++ [.srcRead s.cfg.chunkCap (.chunk 0 [])] }
  | fetchData (h : (hostNow s).reset = false) (hst : s.st = .xfer) (hph : s.ph = .fetch) (b : List Byte)
      (hr : readNow s.cfg.chunkCap s.takeHost = .chunk b.length b) (h1 : 1 ≤ b.length) (hc : b.length ≤ s.cfg.chunkCap) :
      StepCase s { s with st := .xfer, ph := .wait, last := lastFlag s.cfg b.length,
                          tx := Memory.ofBytes (dataFrame s.cfg b), bytesRead := addW s.cfg s.bytesRead b.length, env := s.takeHost.env.usedRead,
                          trace := s.trace ++ [.srcRead s.cfg.chunkCap (.chunk b.length b)] }
  | dataLast (h : (hostNow s).reset = false) (hst : s.st = .xfer) (hph : s.ph = .issue) (bytes rb : List Byte)
      (hb : readTx s = .next bytes) (hn : busNow s.takeHost = .ok rb) (hl : rb.length = s.cfg.frameSize)
      (hlast : s.last = true) :
      StepCase s { s with st := .compl, ph := .wait, tx := Memory.ofBytes (endFrame s.cfg), rx := Memory.ofBytes rb,
                          bytesSent := addW s.cfg s.bytesSent (lengthField bytes), seq := addW s.cfg s.seq 1,
                          env := s.takeHost.env.usedBus,
                          trace := s.trace ++ [.transact bytes s.cfg.busBits (.ok rb)] }
  | dataMore (h : (hostNow s).reset = false) (hst : s.st = .xfer) (hph : s.ph = .issue) (bytes rb : List Byte)
      (hb : readTx s = .next bytes) (hn : busNow s.takeHost = .ok rb) (hl : rb.length = s.cfg.frameSize)
      (hlast : s.last = false) :
      StepCase s { s with st := .xfer, ph := .fetch, rx := Memory.ofBytes rb,
                          bytesSent := addW s.cfg s.bytesSent (lengthField bytes), seq := addW s.cfg s.seq 1,
                          env := s.takeHost.env.usedBus,
                          trace := s.trace ++ [.transact bytes s.cfg.busBits (.ok rb)] }
  | endOk (h : (hostNow s).reset = false) (hst : s.st = .compl) (hph : s.ph = .issue) (bytes rb : List Byte)
      (hb : readTx s = .next bytes) (hn : busNow s.takeHost = .ok rb) (hl : rb.length = s.cfg.frameSize) :
      StepCase s { s with st := .completed, ph := .close, rx := Memory.ofBytes rb, env := s.takeHost.env.usedBus,
                          trace := s.trace ++ [.transact bytes s.cfg.busBits (.ok rb)] }
  | close (h : (hostNow s).reset = false) (hst : s.st = .completed ∨ s.st = .failed) (hph : s.ph = .close) :
      StepCase s { s with ph := .halt, handleOpen := false, mismatch := mismatchFlag s.bytesSent s.totalSize,
                          trace := s.trace ++ (if s.handleOpen then [.srcClose] else []), env := s.takeHost.env }

/-- The host's events are no part of what a meaning reads but the answers: using them up changes the environment alone. -/
theorem State.takeHost_eq (s : State) : s.takeHost = { s with env := s.takeHost.env } := rfl

/-- Every step that goes on is one of these cases, under valid parameters. -/
theorem step_next_cases {s t : State} (h : step s = .next t) : s.cfg.valid = true ∧ StepCase s t := by
  obtain ⟨hv, hc⟩ := advance_cases (show advance s = .next t from h)
  refine ⟨hv, ?_⟩
  rcases hc with ⟨hr, rfl⟩ | ⟨hr, rfl, ⟨hst, hph, _⟩ | ⟨hph, hst⟩⟩ | ⟨hr, i, hd, hq, he⟩
  · exact .reset hr
  · exact .waiting hr hst hph
  · exact .halted hr hst hph
  · cases i with
    | opRequest =>
      rcases execOpRequest_next he with ⟨hn, rfl⟩ | ⟨hst, hph, ⟨ho, rfl⟩ | ⟨size, ho, hs, rfl⟩⟩
      · exfalso
        refine hn ?_
        revert hd
        simp only [State.takeHost_st, State.takeHost_ph]
        cases s.st <;> cases s.ph <;> simp [decodePoint]
      · exact .requestNotFound hr hst hph ho
      · exact .requestOk hr hst hph size ho hs
    | opPoll st =>
      obtain ⟨hw, rfl, hph, rfl⟩ := execOpPoll_next he
      exact .poll hr hw hph
    | opXactStart =>
      obtain ⟨hst, hph, he⟩ := execOpXactStart_next he
      obtain ⟨bytes, hb, ⟨hn, rfl⟩ | ⟨rb, ack, hn, hl, ha, ⟨hne, rfl⟩ | ⟨rfl, rfl⟩⟩⟩ := transactStart_next he
      · rw [afterTransact_fault hn]; exact .busFault hr (.inl hst) hph bytes hb hn
      · rw [afterTransact_ok hn]; exact .startAck hr hst hph bytes rb ack hb hn hl ha hne
      · rw [afterTransact_ok hn]
        exact .startNack hr hst hph bytes rb hb hn hl ha
    | opFetch =>
      obtain ⟨hst, hph, ⟨hn, rfl⟩ | ⟨b, hn, rfl, rfl⟩ | ⟨b, hn, h1, hc, rfl⟩⟩ := execOpFetch_next he
      · exact .fetchError hr hst hph hn
      · exact .fetchEmpty hr hst hph hn
      · have hst' : s.st = .xfer := hst
        have := StepCase.fetchData hr hst hph b hn h1 hc
        rw [← hst'] at *
        exact this
    | opXactData =>
      obtain ⟨hst, hph, he⟩ := execOpXactData_next he
      obtain ⟨bytes, hb, ⟨hn, rfl⟩ | ⟨rb, hn, hl, ⟨hlast, rfl⟩ | ⟨hlast, rfl⟩⟩⟩ := transactData_next he
      · rw [afterTransact_fault hn]; exact .busFault hr (.inr (.inl hst)) hph bytes hb hn
      · rw [afterTransact_ok hn]; exact .dataLast hr hst hph bytes rb hb hn hl hlast
      · rw [afterTransact_ok hn]
        exact .dataMore hr hst hph bytes rb hb hn hl hlast
    | opXactEnd =>
      obtain ⟨hst, hph, he⟩ := execOpXactEnd_next he
      obtain ⟨bytes, hb, ⟨hn, rfl⟩ | ⟨rb, hn, hl, rfl⟩⟩ := transactEnd_next he
      · rw [afterTransact_fault hn]; exact .busFault hr (.inr (.inr hst)) hph bytes hb hn
      · rw [afterTransact_ok hn]; exact .endOk hr hst hph bytes rb hb hn hl
    | opClose st =>
      obtain ⟨hw, rfl, hph, rfl⟩ := execOpClose_next he
      exact .close hr hw hph
    | frameStart | frameData _ | frameEnd | opOpen | opRead _ | opSrcClose | opBuildStart | opBuildData _ | opBuildEnd =>
      exfalso
      revert hd
      cases s.st <;> cases s.ph <;> simp [decodePoint]

end Sys2Proof.Machine
end

