-- ==== Sys2Proof/Laws/Runs.lean ====
section
/-! SUPPORT. Runs, packaged once: what one more step makes of a run, and what holds right after reset and is kept by every step
holds at the end of every run. -/

namespace Sys2Proof.Machine

@[simp] theorem run_zero (s : State) : Host.Core.run Sys2Proof.core 0 s = .next s := rfl

/-! One step of a run, in each of its outcomes. -/

theorem run_succ_of_next (M : Host.Core) (k : Nat) (s u : M.State) (h : M.step s = .next u) :
    M.run (k + 1) s = M.run k u := by
  simp [Host.Core.run, h]

theorem run_succ_of_fault (M : Host.Core) (k : Nat) (s : M.State) (r : M.Fault) (h : M.step s = .fault r) :
    M.run (k + 1) s = .fault r := by
  simp [Host.Core.run, h]

theorem run_succ_of_refused (M : Host.Core) (k : Nat) (s : M.State) (r : M.Refusal) (h : M.step s = .refused r) :
    M.run (k + 1) s = .refused r := by
  simp [Host.Core.run, h]

/-- A run of `k + 1` steps goes on exactly if its first step does and the `k` steps after it do. -/
theorem run_succ_eq_next {k : Nat} {s t : State} :
    Host.Core.run Sys2Proof.core (k + 1) s = .next t ↔
      ∃ u, step s = .next u ∧ Host.Core.run Sys2Proof.core k u = .next t := by
  cases h : step s with
  | next u =>
    have : Host.Core.run Sys2Proof.core (k + 1) s = Host.Core.run Sys2Proof.core k u :=
      run_succ_of_next Sys2Proof.core k s u h
    simp [this]
  | fault r => simp [run_succ_of_fault Sys2Proof.core k s r h]
  | refused r => simp [run_succ_of_refused Sys2Proof.core k s r h]

/-- A step that goes on changes no parameter (R150). -/
theorem step_next_cfg {s t : State} (h : step s = .next t) : t.cfg = s.cfg := by
  obtain ⟨_, hc⟩ := step_next_cases h
  cases hc <;> simp [State.boot]

/-- What every step keeps, a run keeps. -/
theorem run_keeps {P : State → Prop} (hstep : ∀ s t, P s → step s = .next t → P t) {k : Nat} {s t : State} (hs : P s)
    (h : Host.Core.run Sys2Proof.core k s = .next t) : P t := by
  induction k generalizing s with
  | zero => cases h; exact hs
  | succ k ih =>
    obtain ⟨u, hu, h⟩ := run_succ_eq_next.mp h
    exact ih (hstep s u hs hu) h

/-- What holds right after reset under valid parameters, and is kept by every step, holds at the end of every run. -/
theorem Reaches.of_invariant {P : State → Prop} (hboot : ∀ c e, c.valid = true → P (State.boot c e))
    (hstep : ∀ s t, P s → step s = .next t → P t) {c : Config} {e : Env} {k : Nat} {t : State} (h : Reaches c e k t) : P t :=
  run_keeps hstep (hboot c e h.1) h.2

/-- The parameters at the end of a run are those it was started with (R150). -/
theorem Reaches.cfg_eq {c : Config} {e : Env} {k : Nat} {t : State} (h : Reaches c e k t) : t.cfg = c :=
  run_keeps (P := fun s => s.cfg = c) (fun _ _ hs hu => (step_next_cfg hu).trans hs) rfl h.2

end Sys2Proof.Machine
end

