-- ==== Sys2Proof/Tests/Slice0.lean ====
section
/-! SUPPORT. Tests, each with its source in the spec (the vectors of spec/95_test_vectors.md unless a rule is named), and for each
obligation with hypotheses a witness: a concrete state and operands that meet all of them together. -/

namespace Sys2Proof.Tests

open Sys2Proof Sys2Proof.Machine

/-! ## Small configurations, states and environments -/

/-- `F = 8`, `C = 5`, the parameters of the vectors. -/
def c8 : Config := { frameSize := 8, chunkCap := 5 }

def start8 : List Byte := [0x80, 0, 0, 0, 0, 0, 0, 0]
def end8 : List Byte := [0x82, 0, 0, 0, 0, 0, 0, 0]
/-- A short chunk (`46 47`) and a full one (`41 .. 45`), as frames. -/
def data2 : List Byte := [0x81, 0, 2, 0x46, 0x47, 0, 0, 0]
def data5 : List Byte := [0x81, 0, 5, 0x41, 0x42, 0x43, 0x44, 0x45]
def chunk5 : List Byte := [0x41, 0x42, 0x43, 0x44, 0x45]

def nack8 : List Byte := [0, 0, 0, 1, 0, 0, 0, 0]
def ack8 : List Byte := [1, 0, 0, 0, 0, 0, 0, 0]

/-- An environment that gives one `REQUEST` and one answer of each kind. -/
def answers (o : OpenAnswer) (r : Bool) (d : ReadAnswer) (b : BusAnswer) : Env :=
  { host := [{ request := true, reset := false }], opens := [o], ready := [r], reads := [d], bus := [b], draws := 0 }

def friendly : Env := answers (.ok 7) true (.chunk 2 [0x46, 0x47]) (.ok ack8)

/-- An environment in which every answer is a failure, and the host gives `RESET`. -/
def hostile : Env :=
  { answers .notFound false .readError .fault with host := [{ request := true, reset := true }] }

/-- A block at a control point with a frame in `tx` and a handle held. -/
def point (st : Session) (ph : Phase) (tx : List Byte) (e : Env) : State :=
  { State.boot c8 e with st := st, ph := ph, tx := Memory.ofBytes tx, handleOpen := true, totalSize := 7 }

/-- The block right after reset in front of an environment. -/
def fresh (e : Env) : State := State.boot c8 e

/-- A property of the next state; false of a fault and of a refusal. -/
def after (o : Host.Outcome State Fault Refusal) (p : State → Bool) : Bool :=
  match o with
  | .next t => p t
  | .fault _ | .refused _ => false

theorem exists_next_of_after {o : Host.Outcome State Fault Refusal} {p : State → Bool} (h : after o p = true) :
    ∃ t, o = .next t ∧ p t = true := by
  cases o with
  | next t => exact ⟨t, rfl, h⟩
  | fault r => cases h
  | refused r => cases h

/-! ## WellFormed refuses an ill-formed term, one for each check -/

theorem test_wf_data_empty : (Instr.frameData []).wellFormed c8 = false := by decide
theorem test_wf_data_too_long : (Instr.frameData [1, 2, 3, 4, 5, 6]).wellFormed c8 = false := by decide
theorem test_wf_build_empty : (Instr.opBuildData []).wellFormed c8 = false := by decide
theorem test_wf_build_too_long : (Instr.opBuildData [1, 2, 3, 4, 5, 6]).wellFormed c8 = false := by decide
theorem test_wf_data_no_room : (Instr.frameData [1]).wellFormed { frameSize := 3, chunkCap := 1 } = false := by decide
theorem test_wf_poll_idle : (Instr.opPoll .idle).wellFormed c8 = false := by decide
theorem test_wf_poll_reserved : (Instr.opPoll .reserved6).wellFormed c8 = false := by decide
theorem test_wf_close_xfer : (Instr.opClose .xfer).wellFormed c8 = false := by decide
theorem test_wf_close_reserved : (Instr.opClose .reserved7).wellFormed c8 = false := by decide

/-! ## Decoding: words written out from the encodings of R65 to R72 (L2-4) and R25 to R27 -/

theorem test_decode_start : decodeFrame c8 [0x80, 0, 0, 0, 0, 0, 0, 0] = .ok .frameStart := by decide
theorem test_decode_data : decodeFrame c8 [0x81, 0, 2, 0x46, 0x47, 0, 0, 0] = .ok (.frameData [0x46, 0x47]) := by decide
theorem test_decode_data_full : decodeFrame c8 [0x81, 0, 5, 0x41, 0x42, 0x43, 0x44, 0x45] =
    .ok (.frameData [0x41, 0x42, 0x43, 0x44, 0x45]) := by decide
theorem test_decode_end : decodeFrame c8 [0x82, 0, 0, 0, 0, 0, 0, 0] = .ok .frameEnd := by decide
theorem test_decode_start_length : decodeFrame c8 [0x80, 0, 1, 0, 0, 0, 0, 0] = .reject .badLength := by decide
theorem test_decode_end_length : decodeFrame c8 [0x82, 1, 0, 0, 0, 0, 0, 0] = .reject .badLength := by decide
theorem test_decode_data_zero : decodeFrame c8 [0x81, 0, 0, 0, 0, 0, 0, 0] = .reject .badLength := by decide
theorem test_decode_data_six : decodeFrame c8 [0x81, 0, 6, 1, 2, 3, 4, 5] = .reject .badLength := by decide
theorem test_decode_padding : decodeFrame c8 [0x81, 0, 2, 0x46, 0x47, 0, 0, 1] = .reject .nonzeroPadding := by decide
theorem test_decode_end_padding : decodeFrame c8 [0x82, 0, 0, 0xFF, 0, 0, 0, 0] = .reject .nonzeroPadding := by decide
theorem test_decode_7F : decodeFrame c8 [0x7F, 0, 0, 0, 0, 0, 0, 0] = .reject .badOpcode := by decide
theorem test_decode_83 : decodeFrame c8 [0x83, 0, 0, 0, 0, 0, 0, 0] = .reject .badOpcode := by decide
theorem test_decode_data_above_capacity :
    decodeFrame { frameSize := 8, chunkCap := 4 } [0x81, 0, 5, 1, 2, 3, 4, 5] = .reject .badLength := by decide
theorem test_decode_short_string : decodeFrame c8 [0x80, 0, 0] = .reject .badSize := by decide

/-- `ph<<3 | st`, bit by bit, for every pair of R27. -/
theorem test_decode_control_points :
    decodeControl 0b000000 = .ok .opRequest ∧ decodeControl 0b010001 = .ok (.opPoll .await) ∧
    decodeControl 0b011001 = .ok .opXactStart ∧ decodeControl 0b001010 = .ok .opFetch ∧
    decodeControl 0b010010 = .ok (.opPoll .xfer) ∧ decodeControl 0b011010 = .ok .opXactData ∧
    decodeControl 0b010011 = .ok (.opPoll .compl) ∧ decodeControl 0b011011 = .ok .opXactEnd ∧
    decodeControl 0b100100 = .ok (.opClose .completed) ∧ decodeControl 0b100101 = .ok (.opClose .failed) ∧
    decodeControl 0b000100 = .reject .noStep ∧ decodeControl 0b000101 = .reject .noStep := by decide

/-- S3 and the reserved codes: no operation. -/
theorem test_decode_unreachable :
    decodeControl 0b000001 = .reject .unreachable ∧ decodeControl 0b000110 = .reject .unreachable ∧
    decodeControl 0b000111 = .reject .unreachable ∧ decodeControl 0b101000 = .reject .unreachable := by decide

/-- L2-1: the length field of 256, 1021 and 4660. -/
theorem test_length_bytes :
    (lengthHigh 256, lengthLow 256) = (0x01, 0x00) ∧ (lengthHigh 1021, lengthLow 1021) = (0x03, 0xFD) ∧
    (lengthHigh 4660, lengthLow 4660) = (0x12, 0x34) := by decide

/-- R71: the header word of `81 00 02 46 47 00 00 00`. -/
theorem test_header_word : headerWord data2 = 0x810002 := by decide

/-- R69 at the default parameters: the table word `81 00 01` is DATA of one byte. -/
theorem test_table_word : decodeTableWord 24 0x810001 = some (.frameData [0]) := by decide +kernel

/-! ## One step on a small state (L2-2, L2-5, L2-6, L2-7) -/

theorem test_build_start : after (exec .opBuildStart (point .await .issue data5 friendly))
    (fun t => t.tx == [(0, 0x80), (1, 0), (2, 0), (3, 0), (4, 0), (5, 0), (6, 0), (7, 0)]) = true := by decide

/-- The stale bytes `43 44 45` of the frame before are cleared. -/
theorem test_build_data_clears : after (exec (.opBuildData [0x46, 0x47]) (point .xfer .fetch data5 friendly))
    (fun t => t.tx == [(0, 0x81), (1, 0), (2, 2), (3, 0x46), (4, 0x47), (5, 0), (6, 0), (7, 0)]) = true := by decide

/-- `F = 8`, `C = 4`: the last byte is padding though `n = C`. -/
theorem test_build_data_capacity :
    after (exec (.opBuildData [1, 2, 3, 4]) (State.boot { frameSize := 8, chunkCap := 4 } friendly))
      (fun t => t.tx == [(0, 0x81), (1, 0), (2, 4), (3, 1), (4, 2), (5, 3), (6, 4), (7, 0)]) = true := by decide

theorem test_build_end : after (exec .opBuildEnd (point .xfer .issue data5 friendly))
    (fun t => t.tx == [(0, 0x82), (1, 0), (2, 0), (3, 0), (4, 0), (5, 0), (6, 0), (7, 0)]) = true := by decide

theorem test_open : after (exec .opOpen { fresh friendly with bytesRead := 9 })
    (fun t => t.totalSize == 7 && t.bytesRead == 0 && !t.handleOpen) = true := by decide

/-- L2-6: the counter wraps. -/
theorem test_read_wraps :
    after (exec (.opRead 5) { fresh (answers (.ok 7) true (.chunk 5 chunk5) .fault) with bytesRead := 0xFFFFFFFE })
      (fun t => t.bytesRead == 3) = true := by decide

theorem test_source_close : after (exec .opSrcClose (point .failed .close [] friendly))
    (fun t => t.trace == [.srcClose] && t.handleOpen) = true := by decide

/-- S1. -/
theorem test_S1 : after (step (fresh friendly))
    (fun t => t.st == .await && t.ph == .wait && t.totalSize == 7 && t.handleOpen && t.tx == Memory.ofBytes start8) = true := by
  decide

/-- S2. -/
theorem test_S2 : after (step (fresh (answers .notFound true .readError .fault)))
    (fun t => t.st == .failed && t.ph == .halt && t.err == .notFound && !t.handleOpen &&
      t.trace == [.srcOpen "source" .notFound] && t.status == 0x045) = true := by decide

/-- S3. -/
theorem test_S3 : step (point .await .halt [] friendly) = .refused .unreachablePoint := by rfl

/-- S4. -/
theorem test_S4 : after (step (point .await .wait start8 (answers (.ok 7) false .readError .fault)))
    (fun t => t.st == .await && t.ph == .wait) = true := by decide

/-- S5. -/
theorem test_S5 : after (step (point .xfer .wait data5 friendly))
    (fun t => t.st == .xfer && t.ph == .issue && t.status == 0x21A) = true := by decide

/-- S6 and S9: only `rx[0]` is read; `rx[3] = 01` is no ACK. -/
theorem test_S6_S9 : after (step (point .await .issue start8 (answers (.ok 7) true .readError (.ok nack8))))
    (fun t => t.st == .await && t.ph == .wait && t.tx == Memory.ofBytes start8) = true := by decide

/-- S8: any nonzero byte is an ACK. -/
theorem test_S8 : after (step (point .await .issue start8 (answers (.ok 7) true .readError (.ok [0xFF, 0, 0, 0, 0, 0, 0, 0]))))
    (fun t => t.st == .xfer && t.ph == .fetch && t.status == 0x20A) = true := by decide

/-- S11. -/
theorem test_S11 : after (step (point .xfer .fetch start8 (answers (.ok 7) true (.chunk 5 chunk5) .fault)))
    (fun t => t.ph == .wait && t.bytesRead == 5 && !t.last && t.tx == Memory.ofBytes data5 && t.status == 0x212) = true := by
  decide

/-- S13. -/
theorem test_S13 :
    after (step { point .xfer .fetch data5 (answers (.ok 7) true (.chunk 0 []) .fault) with bytesRead := 10 })
      (fun t => t.st == .compl && t.ph == .wait && t.bytesRead == 10 && t.last && t.tx == Memory.ofBytes end8) = true := by
  decide

/-- S15: not the last chunk. -/
theorem test_S15 : after (step (point .xfer .issue data5 friendly))
    (fun t => t.st == .xfer && t.ph == .fetch && t.bytesSent == 5 && t.seq == 1) = true := by decide

/-- S16: the last chunk. -/
theorem test_S16 : after (step { point .xfer .issue data2 friendly with last := true, bytesSent := 5, seq := 1 })
    (fun t => t.st == .compl && t.ph == .wait && t.bytesSent == 7 && t.seq == 2 && t.tx == Memory.ofBytes end8) = true := by
  decide

/-- S18. -/
theorem test_S18 : after (step { point .compl .issue end8 friendly with last := true })
    (fun t => t.st == .completed && t.ph == .close && t.status == 0x324) = true := by decide

/-- S19: `Transact` answers `BusFault`. -/
theorem test_S19 : after (step (point .compl .issue end8 (answers (.ok 7) true .readError .fault)))
    (fun t => t.st == .failed && t.ph == .close && t.err == .busFault) = true := by decide

/-- L2-7: `(FAILED, HALT)`, `err=BUS_FAULT`, `last=1`, `mismatch=1`. -/
theorem test_status_bus_fault :
    ({ fresh friendly with st := .failed, err := .busFault, last := true, mismatch := true } : State).status = 0x5C5 := by decide

/-- S20. -/
theorem test_S20 : after (step { point .completed .close end8 friendly with last := true, bytesSent := 7 })
    (fun t => t.st == .completed && t.ph == .halt && !t.handleOpen && !t.mismatch && t.status == 0x104) = true := by decide

/-- S21. -/
theorem test_S21 : after (step { point .failed .close data5 friendly with err := .readError, bytesSent := 5, totalSize := 10 })
    (fun t => t.st == .failed && t.ph == .halt && t.mismatch && t.trace == [.srcClose] && t.status == 0x485) = true := by decide

/-- S23: `REQUEST` in a terminal state has no step. -/
theorem test_S23 : after (step (point .completed .halt end8 friendly))
    (fun t => t == { point .completed .halt end8 friendly with env := { friendly with host := [] } }) = true := by decide

/-- S24: `RESET` in the middle of a session; no `SrcClose`. -/
theorem test_S24 : after (step (point .xfer .wait data5 hostile))
    (fun t => t == State.boot c8 { hostile with host := [] }) = true := by decide

/-- The three frames as instructions (R68 to R70 with S7, S15 and S18). -/
theorem test_frame_start : after (exec .frameStart (point .await .issue [] friendly))
    (fun t => t.ph == .fetch && t.trace == [.transact start8 64 (.ok ack8)]) = true := by decide
theorem test_frame_data : after (exec (.frameData [0x46, 0x47]) (point .xfer .issue [] friendly))
    (fun t => t.bytesSent == 2 && t.seq == 1 && t.trace == [.transact data2 64 (.ok ack8)]) = true := by decide
theorem test_frame_end : after (exec .frameEnd (point .compl .issue [] friendly))
    (fun t => t.st == .completed && t.trace == [.transact end8 64 (.ok ack8)]) = true := by decide

/-- R18, R77: the written form of frames and replies. -/
theorem test_text :
    busTraceText c8 [.transact start8 64 (.ok [0xA5, 0, 0, 0, 0, 0, 0, 0]), .transact data2 64 .fault] =
      ["START(0;) => OK[A5]", "DATA(2; 46 47) => FAULT"] := by decide +kernel

/-- The reset state's memory is in canonical form. -/
theorem test_reset_memory : Memory.wf State.reset.tx = true ∧ Memory.wf State.reset.rx = true := by decide

/-- A word of the table is what the very next step performs (log 8). -/
theorem test_fetch_word_poll : after (step (State.reset.withFetchWord 6 0x11)) (fun t => t.ph == .issue) = true := by
  decide +kernel
theorem test_fetch_word_data : after (step (State.reset.withFetchWord 24 0x810001)) (fun t => t.bytesSent == 1) = true := by
  decide +kernel

/-! ## Witnesses: what the hypotheses of each obligation ask for, met by a concrete state, clause by clause -/

/-! ### Encoding -/

theorem witness_DecodeReadsBackEveryEncodedInstruction :
    c8.valid = true ∧ (Instr.frameData [0x46, 0x47]).wellFormed c8 = true ∧
    encode c8 (.frameData [0x46, 0x47]) = some (.frame data2) ∧
    (Instr.opClose .failed).wellFormed c8 = true ∧ encode c8 (.opClose .failed) = some (.control 0x25) := by decide

theorem witness_EveryDecodedWordIsTheEncodingOfItsInstruction :
    c8.valid = true ∧ decode c8 (.frame data5) = .ok (.frameData chunk5) ∧
    decode c8 (.control 0x1B) = .ok .opXactEnd := by decide

/-- Each clause at the edge of its range: the opcodes next to the three, the lengths 1, 0 and `C + 1`, and a nonzero byte at the
first and at the last padding offset. -/
theorem witness_ClassifyDecidesEveryFrame :
    c8.valid = true ∧
    (∀ op ∈ [(0x7F : Byte), 0x83], [op, 0, 0, 0, 0, 0, 0, 0].length = c8.frameSize ∧ op ≠ c8.opStart ∧ op ≠ c8.opData ∧
      op ≠ c8.opEnd) ∧
    lengthField [0x80, 0, 1, 0, 0, 0, 0, 0] ≠ 0 ∧ lengthField [0x82, 1, 0, 0, 0, 0, 0, 0] ≠ 0 ∧
    lengthField [0x81, 0, 0, 0, 0, 0, 0, 0] = 0 ∧ lengthField [0x81, 0, 6, 1, 2, 3, 4, 5] > c8.chunkCap ∧
    (lengthField [0x82, 0, 0, 0xFF, 0, 0, 0, 0] = 0 ∧ [(0x82 : Byte), 0, 0, 0xFF, 0, 0, 0, 0][3]? = some 0xFF) ∧
    (1 ≤ lengthField [0x81, 0, 2, 0x46, 0x47, 1, 0, 0] ∧ lengthField [0x81, 0, 2, 0x46, 0x47, 1, 0, 0] ≤ c8.chunkCap ∧
      [(0x81 : Byte), 0, 2, 0x46, 0x47, 1, 0, 0][5]? = some 1) ∧
    (1 ≤ lengthField [0x81, 0, 4, 1, 2, 3, 4, 1] ∧ lengthField [0x81, 0, 4, 1, 2, 3, 4, 1] ≤ c8.chunkCap ∧
      [(0x81 : Byte), 0, 4, 1, 2, 3, 4, 1][7]? = some 1) ∧
    (∀ fr ∈ [start8, end8], lengthField fr = 0 ∧ (fr.drop 3).all (· == 0) = true) ∧
    (∀ fr ∈ [data2, data5], 1 ≤ lengthField fr ∧ lengthField fr ≤ c8.chunkCap ∧
      (fr.drop (3 + lengthField fr)).all (· == 0) = true) := by decide

theorem witness_DataHeaderIsBigEndian :
    c8.valid = true ∧ chunkOk c8 [0xFF] = true ∧ chunkOk c8 chunk5 = true := by decide

/-! ### Reset and the control point -/

theorem witness_ResetGivesEveryElementItsResetValue :
    (point .xfer .wait data5 hostile).cfg.valid = true ∧ (hostNow (point .xfer .wait data5 hostile)).reset = true := by decide

/-- Every control point of R27 that selects an operation, with `REQUEST` given at `(IDLE, HALT)`. -/
theorem witness_StepRunsTheSelectedOperation :
    ∀ x ∈ [(Session.idle, Phase.halt, Instr.opRequest), (.await, .wait, .opPoll .await), (.await, .issue, .opXactStart),
        (.xfer, .fetch, .opFetch), (.xfer, .wait, .opPoll .xfer), (.xfer, .issue, .opXactData), (.compl, .wait, .opPoll .compl),
        (.compl, .issue, .opXactEnd), (.completed, .close, .opClose .completed), (.failed, .close, .opClose .failed)],
      (point x.1 x.2.1 [] friendly).cfg.valid = true ∧ (hostNow (point x.1 x.2.1 [] friendly)).reset = false ∧
      decodeControl (controlWord x.1 x.2.1) = .ok x.2.2 ∧ (hostNow (point x.1 x.2.1 [] friendly)).request = true := by
  decide

theorem witness_StepSendsTheFrameInTheBuffer :
    (hostNow (point .await .issue start8 friendly)).reset = false ∧ c8.valid = true ∧
    decodeFrame c8 start8 = .ok .frameStart ∧ decodeFrame c8 end8 = .ok .frameEnd ∧
    decodeFrame c8 data2 = .ok (.frameData [0x46, 0x47]) ∧ (point .await .issue start8 friendly).tx = Memory.ofBytes start8 ∧
    (point .xfer .issue data2 friendly).tx = Memory.ofBytes data2 ∧
    (point .compl .issue end8 friendly).tx = Memory.ofBytes end8 := by decide

theorem witness_HaltedBlockStaysAsItIs :
    ((point .completed .halt end8 friendly).cfg.valid = true ∧ (hostNow (point .completed .halt end8 friendly)).reset = false) ∧
    (hostNow (point .failed .halt end8 friendly)).reset = false ∧
    ((fresh Env.silent).st = .idle ∧ (hostNow (fresh Env.silent)).request = false ∧
      (hostNow (fresh Env.silent)).reset = false) := by decide

theorem witness_RequestElsewhereIsIgnored :
    ¬((point .xfer .wait data5 friendly).st = .idle ∧ (point .xfer .wait data5 friendly).ph = .halt) ∧
    ¬((point .idle .close [] friendly).st = .idle ∧ (point .idle .close [] friendly).ph = .halt) := by decide

/-- Each constraint broken by one. -/
theorem witness_InvalidParametersAreRefused :
    ({ frameSize := 8, chunkCap := 0 } : Config).chunkCap < 1 ∧
    ({ frameSize := 8, chunkCap := 6 } : Config).frameSize < 6 + 3 ∧
    65535 < ({ frameSize := 65539, chunkCap := 65536 } : Config).chunkCap ∧
    ({ opStart := 0x81 } : Config).opStart = ({ opStart := 0x81 } : Config).opData ∧
    ({ opStart := 0x82 } : Config).opStart = ({ opStart := 0x82 } : Config).opEnd ∧
    ({ opData := 0x82 } : Config).opData = ({ opData := 0x82 } : Config).opEnd ∧
    ({ frameSize := 8, ackIndex := 8 } : Config).frameSize ≤ ({ frameSize := 8, ackIndex := 8 } : Config).ackIndex := by decide

theorem witness_UnreachableControlPointIsRefused :
    ∀ x ∈ [(Session.await, Phase.halt), (.idle, .wait), (.reserved6, .halt), (.reserved7, .close), (.xfer, .reserved5),
        (.compl, .reserved7), (.failed, .reserved6)],
      c8.valid = true ∧ (hostNow (point x.1 x.2 [] friendly)).reset = false ∧ x ∉ reachablePoints := by decide

/-! ### The Frame Builder -/

theorem witness_BuildStartAndEndWriteTheWholeBuffer : (point .idle .halt data5 friendly).cfg.valid = true := by decide

theorem witness_BuildDataWritesHeaderChunkAndPadding :
    (point .xfer .fetch data5 friendly).cfg.valid = true ∧
    (1 ≤ [(0xFF : Byte)].length ∧ [(0xFF : Byte)].length ≤ c8.chunkCap) ∧ (1 ≤ chunk5.length ∧ chunk5.length ≤ c8.chunkCap) := by
  decide

/-- On an unwritten buffer and on one an earlier frame filled. -/
theorem witness_PseudocodeLoopsEqualTheWholeBufferWrite :
    c8.valid = true ∧ chunkOk c8 chunk5 = true ∧ Memory.wf (Memory.ofBytes data5) = true ∧
    (∀ a, c8.frameSize ≤ a → Memory.read (Memory.ofBytes data5) a = none) ∧
    Memory.wf [] = true ∧ ∀ a, c8.frameSize ≤ a → Memory.read [] a = none := by
  refine ⟨by decide, by decide, by decide, fun a ha => ?_, by decide, fun a _ => rfl⟩
  rw [Memory.read_ofBytes]
  exact List.getElem?_eq_none ha

theorem witness_OpenRecordsTheSourceSize :
    (openNow (fresh friendly) = .ok 7 ∧ 7 < 2 ^ c8.cntW) ∧
    (openNow (fresh (answers (.ok (2 ^ 32 - 1)) true .readError .fault)) = .ok (2 ^ 32 - 1) ∧ 2 ^ 32 - 1 < 2 ^ c8.cntW) ∧
    openNow (fresh hostile) = .notFound := by decide

theorem witness_ReadCountsTheBytesItDelivers :
    (readNow 5 (fresh (answers (.ok 7) true (.chunk 5 chunk5) .fault)) = .chunk chunk5.length chunk5 ∧ chunk5.length ≤ 5) ∧
    readNow 5 (fresh (answers (.ok 7) true (.chunk 0 []) .fault)) = .chunk ([] : List Byte).length [] ∧
    readNow 5 (fresh hostile) = .readError := by decide

theorem witness_AnswersOutsideTheContractAreRefused :
    (openNow (fresh (answers (.ok (2 ^ 32)) true .readError .fault)) = .ok (2 ^ 32) ∧ 2 ^ c8.cntW ≤ 2 ^ 32) ∧
    (readNow 5 (fresh (answers (.ok 7) true (.chunk 6 [1, 2, 3, 4, 5, 6]) .fault)) = .chunk 6 [1, 2, 3, 4, 5, 6] ∧ 5 < 6) ∧
    (readNow 5 (fresh (answers (.ok 7) true (.chunk 1 []) .fault)) = .chunk 1 [] ∧ ([] : List Byte).length ≠ 1) := by decide

theorem witness_AnswersOutsideTheContractAreRefused_point :
    (fresh friendly).st = .idle ∧ (fresh friendly).ph = .halt ∧ (point .xfer .fetch start8 friendly).st = .xfer ∧
    (point .xfer .fetch start8 friendly).ph = .fetch ∧ 5 = c8.chunkCap := by decide

theorem witness_AnswersOutsideTheContractAreRefused_reply :
    ∀ x ∈ [(Session.await, start8), (.xfer, data5), (.compl, end8)],
      readTx (point x.1 .issue x.2 (answers (.ok 7) true .readError (.ok [1]))) = .next x.2 ∧
      busNow (point x.1 .issue x.2 (answers (.ok 7) true .readError (.ok [1]))) = .ok [1] ∧
      [(1 : Byte)].length ≠ c8.frameSize := by
  intro x hx
  fin_cases hx <;> exact ⟨rfl, by decide, by decide⟩

/-! ### The Sequencer -/

theorem witness_RequestStartsASession :
    ((fresh friendly).st = .idle ∧ (fresh friendly).ph = .halt ∧ openNow (fresh friendly) = .ok 7 ∧ 7 < 2 ^ c8.cntW) ∧
    ((fresh hostile).st = .idle ∧ (fresh hostile).ph = .halt ∧ openNow (fresh hostile) = .notFound) ∧
    ¬((point .await .wait [] friendly).st = .idle ∧ (point .await .wait [] friendly).ph = .halt) := by decide

theorem witness_PollWritesOnlyThePhase :
    ∀ st ∈ [Session.await, .xfer, .compl], (point st .wait [] friendly).st = st ∧ (point st .wait [] friendly).ph = .wait := by
  decide

theorem witness_EnvironmentAnswersInScriptOrder :
    friendly.opens = .ok 7 :: [] ∧ friendly.reads = .chunk 2 [0x46, 0x47] :: [] ∧ friendly.bus = .ok ack8 :: [] ∧
    friendly.ready = [true] ∧ ({ friendly with ready := [false, true] } : Env).ready = false :: true :: [] ∧
    Env.silent.opens = [] ∧ Env.silent.reads = [] ∧ Env.silent.bus = [] := by decide

theorem witness_StartTransactionJudgesTheAcknowledgeByte :
    readTx (point .await .issue start8 friendly) = .next start8 ∧
    (∀ rb ∈ [(nack8, (0 : Byte)), (ack8, 1)],
      busNow (point .await .issue start8 (answers (.ok 7) true .readError (.ok rb.1))) = .ok rb.1 ∧
      rb.1.length = c8.frameSize ∧ rb.1[c8.ackIndex]? = some rb.2) :=
  ⟨rfl, by decide⟩

theorem witness_FetchFormatsTheChunkItReads :
    (∀ b ∈ [[(0xFF : Byte)], chunk5],
      readNow 5 (point .xfer .fetch start8 (answers (.ok 7) true (.chunk b.length b) .fault)) = .chunk b.length b ∧
      1 ≤ b.length ∧ b.length ≤ c8.chunkCap) ∧
    readNow 5 (point .xfer .fetch start8 (answers (.ok 7) true (.chunk 0 []) .fault)) = .chunk 0 [] ∧
    readNow 5 (point .xfer .fetch start8 hostile) = .readError := by decide

theorem witness_DataTransactionAdvancesTheCounters :
    c8.valid = true ∧ chunkOk c8 chunk5 = true ∧ (point .xfer .issue data5 friendly).st = .xfer ∧
    (point .xfer .issue data5 friendly).tx = Memory.ofBytes (dataFrame c8 chunk5) ∧
    busNow (point .xfer .issue data5 friendly) = .ok ack8 ∧ ack8.length = c8.frameSize := by decide

theorem witness_EndTransactionCompletesTheSession :
    readTx (point .compl .issue end8 friendly) = .next end8 ∧ busNow (point .compl .issue end8 friendly) = .ok ack8 ∧
    ack8.length = c8.frameSize :=
  ⟨rfl, by decide, by decide⟩

theorem witness_CloseReleasesTheHandleAndFlagsMismatch :
    ∀ st ∈ [Session.completed, .failed], (point st .close [] friendly).st = st ∧ (point st .close [] friendly).ph = .close := by
  decide

theorem witness_FrameInstructionsSendTheirFrame :
    c8.valid = true ∧ busNow (point .await .issue [] friendly) = .ok ack8 ∧ ack8.length = c8.frameSize ∧
    ack8[c8.ackIndex]? = some 1 ∧ nack8[c8.ackIndex]? = some 0 ∧ chunkOk c8 [0xFF] = true ∧ chunkOk c8 chunk5 = true := by decide

theorem witness_FrameInstructionIsItsTransaction : chunkOk c8 [0xFF] = true ∧ chunkOk c8 chunk5 = true := by decide

theorem witness_OperationsAwayFromTheirPointAreRefused :
    ¬((point .idle .close [] friendly).st = .idle ∧ (point .idle .close [] friendly).ph = .halt) ∧
    ¬((Session.idle = .await ∨ Session.idle = .xfer ∨ Session.idle = .compl) ∧
      (point .idle .wait [] friendly).st = .idle ∧ (point .idle .wait [] friendly).ph = .wait) ∧
    ¬((point .xfer .wait [] friendly).st = .xfer ∧ (point .xfer .wait [] friendly).ph = .fetch) ∧
    chunkOk c8 [] = false ∧ chunkOk c8 [1, 2, 3, 4, 5, 6] = false := by decide

/-! ### Failures -/

theorem witness_BusFaultFailsTheSession :
    ∀ x ∈ [(Session.await, start8), (.xfer, data5), (.compl, end8)],
      readTx (point x.1 .issue x.2 hostile) = .next x.2 ∧ busNow (point x.1 .issue x.2 hostile) = .fault := by
  intro x hx
  fin_cases hx <;> exact ⟨rfl, by decide⟩

/-- A buffer without its last byte, without its first one, and a whole one. -/
theorem witness_ReadingAnUnwrittenByteFaults :
    (Memory.wf (point .await .issue (start8.take 7) friendly).tx = true ∧
      Memory.read (point .await .issue (start8.take 7) friendly).tx 7 = none) ∧
    (Memory.wf [] = true ∧ Memory.read [] 0 = none ∧ 0 < c8.frameSize ∧ 7 < c8.frameSize) ∧
    (data5.length = c8.frameSize ∧ ∀ a, a < c8.frameSize → Memory.read (Memory.ofBytes data5) a = data5[a]?) ∧
    Memory.read (point .await .issue [] friendly).rx 0 = none ∧ Memory.read (Memory.ofBytes ack8) 0 = some 1 := by
  refine ⟨by decide, by decide, by decide, by decide, by decide⟩

/-! ### Rules of the whole block -/

theorem witness_OnlyTheListedOperationsWriteAnElement :
    (∃ t, exec .opFetch (point .xfer .fetch start8 friendly) = .next t) ∧ Element.rx ∉ mayWrite .opFetch ∧
    (∃ t, exec .opXactData (point .xfer .issue data5 friendly) = .next t) ∧ Element.last ∉ mayWrite .opXactData :=
  ⟨⟨_, rfl⟩, by decide, ⟨_, rfl⟩, by decide⟩

theorem witness_EveryInstructionKeepsBuffersCanonical :
    (∃ t, exec .opXactStart (point .await .issue start8 friendly) = .next t) ∧
    Memory.wf (point .await .issue start8 friendly).tx = true ∧ Memory.wf (point .await .issue start8 friendly).rx = true :=
  ⟨⟨_, rfl⟩, by decide, by decide⟩

theorem witness_StepMakesAtMostOneCollaboratorCall :
    (∃ t, step (point .xfer .fetch start8 friendly) = .next t) ∧ ∃ t, step (point .xfer .wait data5 hostile) = .next t :=
  ⟨⟨_, rfl⟩, ⟨_, rfl⟩⟩

theorem witness_FailureIsFinalAndSendsNothing :
    (point .failed .close data5 friendly).st = .failed ∧ (hostNow (point .failed .close data5 friendly)).reset = false ∧
    (∃ t, step (point .failed .close data5 friendly) = .next t) ∧ ∃ t, step (point .failed .halt data5 friendly) = .next t :=
  ⟨rfl, rfl, ⟨_, rfl⟩, ⟨_, rfl⟩⟩

/-- Two replies that agree on whether `rx[0]` is zero, both steps going on, in the three transacting states. -/
theorem witness_RepliesAreNotInspected :
    ([(0xFF : Byte), 1, 2, 3, 4, 5, 6, 7].length = c8.frameSize ∧ ack8.length = c8.frameSize) ∧
    ([(0xFF : Byte), 1, 2, 3, 4, 5, 6, 7][c8.ackIndex]? = some 0 ↔ ack8[c8.ackIndex]? = some 0) ∧
    ∀ x ∈ [(Session.await, start8), (.xfer, data5), (.compl, end8)], ∀ rb ∈ [[0xFF, 1, 2, 3, 4, 5, 6, 7], ack8],
      (hostNow (point x.1 .issue x.2 friendly)).reset = false ∧
      after (step { point x.1 .issue x.2 friendly with env := { friendly with bus := [.ok rb] } }) (fun _ => true) = true := by
  decide

/-! ### Invariants and runs

A session over the file `41 .. 47` (one full and one short chunk), with one NACK before the ACK. -/

def sessionEnv : Env :=
  friendlyEnv c8 [0x41, 0x42, 0x43, 0x44, 0x45, 0x46, 0x47] [nack8, ack8, nack8, nack8, nack8]

/-- The state after `k` steps of that session. -/
def sessionAt (e : Env) (k : Nat) : State :=
  match Host.Core.run Sys2Proof.core k (State.boot c8 e) with
  | .next t => t
  | .fault _ | .refused _ => State.boot c8 e

theorem reaches_of_after {e : Env} {k : Nat}
    (h : after (Host.Core.run Sys2Proof.core k (State.boot c8 e)) (fun _ => true) = true) :
    Reaches c8 e k (sessionAt e k) := by
  refine ⟨by decide, ?_⟩
  obtain ⟨t, ht, _⟩ := exists_next_of_after h
  simp only [sessionAt, ht]
  rfl

/-- The session ends, after 14 steps (R113, R114), in `(COMPLETED, HALT)`. -/
theorem reaches_completed :
    Reaches c8 sessionEnv 14 (sessionAt sessionEnv 14) ∧ (sessionAt sessionEnv 14).st = .completed ∧
    (sessionAt sessionEnv 14).ph = .halt :=
  ⟨reaches_of_after (by decide +kernel), by decide +kernel, by decide +kernel⟩

theorem witness_EveryTransactionIsGatedAndSendsAFrame :
    Reaches c8 sessionEnv 14 (sessionAt sessionEnv 14) ∧
    ∃ pre post, (sessionAt sessionEnv 14).trace = pre ++ .transact start8 64 (.ok nack8) :: post :=
  ⟨reaches_completed.1, (sessionAt sessionEnv 14).trace.take 2, (sessionAt sessionEnv 14).trace.drop 3, by decide +kernel⟩

theorem witness_CompletedSessionRoundTrips :
    Reaches c8 sessionEnv 14 (sessionAt sessionEnv 14) ∧ (sessionAt sessionEnv 14).st = .completed ∧
    deliveredChunks (sessionAt sessionEnv 14).trace = [chunk5, [0x46, 0x47]] :=
  ⟨reaches_completed.1, reaches_completed.2.1, by decide +kernel⟩

theorem witness_SourceIsClosedExactlyOncePerOpen :
    Reaches c8 sessionEnv 14 (sessionAt sessionEnv 14) ∧ (sessionAt sessionEnv 14).ph = .halt :=
  ⟨reaches_completed.1, reaches_completed.2.2⟩

/-- A short read in the middle of the history, its count one below `C` and below. -/
theorem witness_NoReadFollowsAFinalResult :
    Reaches c8 sessionEnv 14 (sessionAt sessionEnv 14) ∧
    ∃ pre post, (sessionAt sessionEnv 14).trace = pre ++ .srcRead 5 (.chunk 2 [0x46, 0x47]) :: post ∧ 2 < c8.chunkCap :=
  ⟨reaches_completed.1, (sessionAt sessionEnv 14).trace.take 8, (sessionAt sessionEnv 14).trace.drop 9, by decide +kernel⟩

/-- The three ways to fail: not found, a read error after one chunk, a bus fault on a DATA frame (P5, P4, P6). -/
def notFoundEnv : Env := { sessionEnv with opens := [.notFound] }
def readErrorEnv : Env := { sessionEnv with reads := [.readError], bus := [.ok ack8] }
def busFaultEnv : Env := { sessionEnv with bus := [.ok ack8, .fault] }

theorem witness_SessionTraceHasTheSpecsShape :
    (Reaches c8 sessionEnv 14 (sessionAt sessionEnv 14) ∧ (sessionAt sessionEnv 14).st = .completed) ∧
    (Reaches c8 notFoundEnv 1 (sessionAt notFoundEnv 1) ∧ (sessionAt notFoundEnv 1).st = .failed ∧
      (sessionAt notFoundEnv 1).err = .notFound) ∧
    (Reaches c8 readErrorEnv 5 (sessionAt readErrorEnv 5) ∧ (sessionAt readErrorEnv 5).st = .failed ∧
      (sessionAt readErrorEnv 5).err = .readError) ∧
    (Reaches c8 busFaultEnv 7 (sessionAt busFaultEnv 7) ∧ (sessionAt busFaultEnv 7).st = .failed ∧
      (sessionAt busFaultEnv 7).err = .busFault) :=
  ⟨⟨reaches_completed.1, reaches_completed.2.1⟩,
    ⟨reaches_of_after (by decide +kernel), by decide +kernel, by decide +kernel⟩,
    ⟨reaches_of_after (by decide +kernel), by decide +kernel, by decide +kernel⟩,
    ⟨reaches_of_after (by decide +kernel), by decide +kernel, by decide +kernel⟩⟩

theorem witness_NotFoundSessionNeverStarts :
    Reaches c8 notFoundEnv 1 (sessionAt notFoundEnv 1) ∧ (sessionAt notFoundEnv 1).err = .notFound :=
  ⟨reaches_of_after (by decide +kernel), by decide +kernel⟩

theorem witness_FaultedDataFrameIsReadButNotSent :
    Reaches c8 busFaultEnv 7 (sessionAt busFaultEnv 7) ∧ (sessionAt busFaultEnv 7).err = .busFault ∧
    chunkOk c8 chunk5 = true ∧ (busTrace (sessionAt busFaultEnv 7).trace).getLast? = some (dataFrame c8 chunk5, .fault) :=
  ⟨reaches_of_after (by decide +kernel), by decide +kernel, by decide +kernel, by decide +kernel⟩

theorem witness_ReferenceSourceReadsTheWholeFile : 1 ≤ 1 ∧ 1 ≤ 5 := by decide

theorem witness_ReferenceSessionCompletes :
    c8.valid = true ∧ chunk5.length < 2 ^ c8.cntW ∧
    (∀ rb ∈ [nack8], rb.length = c8.frameSize ∧ rb[c8.ackIndex]? = some 0) ∧ ack8.length = c8.frameSize ∧
    ack8[c8.ackIndex]? ≠ some 0 ∧ (∀ rb ∈ [ack8, nack8], rb.length = c8.frameSize) ∧
    [ack8, nack8].length = (fileChunks c8.chunkCap chunk5).length + 1 := by decide

theorem witness_PollingEndsAtTheFirstAssertedSample :
    ∀ k ∈ [0, 1, 3], ∀ st ∈ [Session.await, .xfer, .compl],
      (point st .wait [] { friendly with ready := List.replicate k false ++ [true] }).cfg.valid = true ∧
      ({ friendly with ready := List.replicate k false ++ [true] } : Env).ready = List.replicate k false ++ [true] ∧
      ∀ h ∈ friendly.host, h.reset = false := by decide

theorem witness_StuckPeerHaltsTheSession :
    ∀ st ∈ [Session.await, .xfer, .compl],
      (point st .wait [] { friendly with ready := [false] }).cfg.valid = true ∧
      ({ friendly with ready := [false] } : Env).ready = [false] ∧ ∀ h ∈ friendly.host, h.reset = false := by decide

theorem witness_NackedHandshakeIsRetriedForEver :
    (point .await .wait start8 { friendly with bus := [.ok nack8, .ok nack8] }).cfg.valid = true ∧
    (point .await .wait start8 friendly).tx = Memory.ofBytes (startFrame c8) ∧ friendly.ready = [true] ∧
    [BusAnswer.ok nack8, .ok nack8] = [nack8, nack8].map .ok ++ [] ∧
    (∀ rb ∈ [nack8, nack8], rb.length = c8.frameSize ∧ rb[c8.ackIndex]? = some 0) ∧
    ∀ h ∈ friendly.host, h.reset = false := by decide

/-! ### A state of the invariants in the middle of a session

`(XFER, ISSUE)`: a short chunk was read and its DATA frame waits in `tx`; the sample that gates it is unused. -/

def midTrace : List Event :=
  [.srcOpen "source" (.ok 2), .ready true, .transact start8 64 (.ok ack8), .srcRead 5 (.chunk 2 [0x46, 0x47]), .ready true]

def mid : State :=
  { cfg := c8, st := .xfer, ph := .issue, err := .none, tx := Memory.ofBytes data2, rx := Memory.ofBytes ack8,
    totalSize := 2, bytesRead := 2, bytesSent := 0, seq := 0, last := true, handleOpen := true, mismatch := false,
    trace := midTrace, env := friendly }

theorem mid_regInv : RegInv mid where
  valid := by decide
  point := by decide
  idle := by decide
  counters := by decide
  txWhole := .inr ⟨data2, by decide, rfl⟩
  rxWhole := .inr ⟨ack8, by decide, rfl⟩
  frame := fun _ => ⟨by decide, fun _ => ⟨[0x46, 0x47], by decide, by decide, by decide⟩, by decide⟩
  fetch := by decide
  handle := by decide
  cause := by decide
  mismatch := by decide

theorem mid_gated : ReadinessGated mid := by
  refine ⟨?_, by decide⟩
  intro pre tx n a post h
  rcases append_single_split (tr := midTrace.take 4) (e := .ready true) h with ⟨_, h, _⟩ | ⟨p4, _, h⟩
  · cases h
  rcases append_single_split (tr := midTrace.take 3) (e := .srcRead 5 (.chunk 2 [0x46, 0x47])) h with ⟨_, h, _⟩ | ⟨p3, _, h⟩
  · cases h
  rcases append_single_split (tr := midTrace.take 2) (e := .transact start8 64 (.ok ack8)) h with ⟨rfl, _, _⟩ | ⟨p2, _, h⟩
  · decide
  rcases append_single_split (tr := midTrace.take 1) (e := .ready true) h with ⟨_, h, _⟩ | ⟨p1, _, h⟩
  · cases h
  have hm : Event.transact tx n a ∈ midTrace.take 1 := by rw [h]; simp
  simp [midTrace] at hm

theorem mid_shape : BusShape mid :=
  ⟨[], (start8, .ok ack8), [], rfl, by simp [Handshaking], ⟨ack8, 1, by decide, by decide, by decide⟩, by simp⟩

theorem mid_chunks : ChunkBooks mid :=
  ⟨⟨[[0x46, 0x47]], by decide, by rw [Pending, if_pos (by decide)]; exact ⟨_, by decide, by decide, rfl⟩⟩,
    by decide, by decide, by decide⟩

theorem mid_source : SourceBooks mid := by
  refine ⟨?_, ?_, by decide, by decide, by decide⟩
  · intro n a h
    simp [mid, midTrace] at h
    exact h.1
  · intro pre e post h hf
    rcases append_single_split (tr := midTrace.take 4) (e := .ready true) h with ⟨_, rfl, rfl⟩ | ⟨p4, rfl, h4⟩
    · cases hf
    rcases append_single_split (tr := midTrace.take 3) (e := .srcRead 5 (.chunk 2 [0x46, 0x47])) h4 with
      ⟨_, rfl, rfl⟩ | ⟨p3, rfl, h3⟩
    · decide
    have hm : e ∈ midTrace.take 3 := by rw [h3]; simp
    simp [midTrace] at hm
    rcases hm with rfl | rfl | rfl <;> cases hf

theorem mid_step : ∃ t, step mid = .next t := ⟨_, rfl⟩

theorem witness_StepKeepsTheRegisterInvariant : RegInv mid ∧ ∃ t, step mid = .next t := ⟨mid_regInv, mid_step⟩
theorem witness_StepKeepsReadinessGating : RegInv mid ∧ ReadinessGated mid ∧ ∃ t, step mid = .next t :=
  ⟨mid_regInv, mid_gated, mid_step⟩
theorem witness_StepKeepsTheBusTraceShape : RegInv mid ∧ BusShape mid ∧ ∃ t, step mid = .next t :=
  ⟨mid_regInv, mid_shape, mid_step⟩
theorem witness_StepKeepsTheChunkAccount : RegInv mid ∧ ChunkBooks mid ∧ ∃ t, step mid = .next t :=
  ⟨mid_regInv, mid_chunks, mid_step⟩
theorem witness_StepKeepsTheUseOfTheSource : RegInv mid ∧ SourceBooks mid ∧ ∃ t, step mid = .next t :=
  ⟨mid_regInv, mid_source, mid_step⟩

/-- The same session one step earlier, before a read that fails. -/
def reading : State :=
  { mid with ph := .fetch, tx := Memory.ofBytes start8, bytesRead := 0, last := false, trace := midTrace.take 3, env :=
      { hostile with host := [] } }

theorem witness_ReadErrorFailsTheSessionAndClosesTheSource :
    RegInv reading ∧ reading.st = .xfer ∧ reading.ph = .fetch ∧ readNow reading.cfg.chunkCap reading = .readError ∧
    (hostNow reading).reset = false ∧ (hostNow reading.takeHost).reset = false :=
  ⟨{ valid := by decide, point := by decide, idle := by decide, counters := by decide,
     txWhole := .inr ⟨start8, by decide, rfl⟩, rxWhole := .inr ⟨ack8, by decide, rfl⟩,
     frame := fun h => absurd h (by decide), fetch := by decide, handle := by decide, cause := by decide,
     mismatch := by decide }, by decide, by decide, by decide, by decide, by decide⟩

theorem witness_StepGoesOnUnderTheContract : RegInv mid ∧ mid.env.meets mid.cfg := by
  refine ⟨mid_regInv, by decide, by decide, by decide⟩

theorem witness_InvariantsHoldAfterReset : c8.valid = true := by decide

end Sys2Proof.Tests
end

/-! SUPPORT. One more event in the books of the source (R10, R35, R36, R92), and the step that keeps them. -/

namespace Sys2Proof.Machine

/-! ### The source's books -/

/-- Only a read can be a final one (R92). -/
theorem Event.isFinalRead_of_not_isRead {c : Config} {e : Event} (h : e.isRead = false) : e.isFinalRead c = false := by
  cases e with
  | srcRead n a => simp [Event.isRead] at h
  | ready _ | transact _ _ _ | srcOpen _ _ | srcClose => rfl

/-- In the history no read stands after a final one (R92, R155): the clause of `SourceBooks`. -/
def NoReadAfterFinal (c : Config) (tr : List Event) : Prop :=
  ∀ pre e post, tr = pre ++ e :: post → e.isFinalRead c = true → ∀ e' ∈ post, e'.isRead = false

/-- One event more keeps the order of the reads, if it is no read or no read before it was final. -/
theorem NoReadAfterFinal.append {c : Config} {tr : List Event} {e : Event} (h : NoReadAfterFinal c tr)
    (hfresh : e.isRead = true → tr.any (Event.isFinalRead c) = false) : NoReadAfterFinal c (tr ++ [e]) := by
  intro pre x post hsplit hx y hy
  rcases append_single_split hsplit with ⟨_, _, rfl⟩ | ⟨post', rfl, rfl⟩
  · cases hy
  · rcases List.mem_append.mp hy with hy | hy
    · exact h pre x post' rfl hx y hy
    · obtain rfl := List.mem_singleton.mp hy
      by_contra hread
      have hnone := hfresh (by simpa using hread)
      simp [hx] at hnone

/-- What an event has to meet for the books to stay right when it is added: a read asks for `C` bytes and comes while `last` is
clear, `last` takes in whether it was final, and an open or a close is balanced by the handle. -/
theorem SourceBooks.append {s t : State} {e : Event} (h : SourceBooks s) (hcfg : t.cfg = s.cfg)
    (htrace : t.trace = s.trace ++ [e]) (hcap : ∀ n a, e = .srcRead n a → n = s.cfg.chunkCap)
    (hfresh : e.isRead = true → s.last = false) (hlast : t.last = (s.last || e.isFinalRead s.cfg))
    (hheld : e.isOpenOk.toNat + s.handleOpen.toNat = e.isClose.toNat + t.handleOpen.toNat)
    (honce : e.isOpenOk = true → s.trace.countP Event.isOpenOk = 0) : SourceBooks t := by
  obtain ⟨hreads, hfinal, hl, hbal, hopen⟩ := h
  have hcount (p : Event → Bool) : (s.trace ++ [e]).countP p = s.trace.countP p + (p e).toNat := by
    cases hp : p e <;> simp [hp]
  unfold SourceBooks
  rw [hcfg, htrace]
  refine ⟨fun n a hmem => ?_, NoReadAfterFinal.append hfinal fun hr => hl ▸ hfresh hr, ?_, ?_, ?_⟩
  · rcases List.mem_append.mp hmem with hmem | hmem
    · exact hreads n a hmem
    · exact hcap n a (List.mem_singleton.mp hmem).symm
  · simp [hlast, hl]
  · rw [hcount, hcount]
    omega
  · rw [hcount]
    cases ho : e.isOpenOk with
    | false => simpa using hopen
    | true => simp [honce ho]

/-- An event that is no read, no successful open and no close leaves the books as they are. -/
theorem SourceBooks.append_other {s t : State} {e : Event} (h : SourceBooks s) (hcfg : t.cfg = s.cfg)
    (htrace : t.trace = s.trace ++ [e]) (hlast : t.last = s.last) (hheld : t.handleOpen = s.handleOpen)
    (hread : e.isRead = false) (hopen : e.isOpenOk = false) (hclose : e.isClose = false) : SourceBooks t :=
  h.append hcfg htrace (fun n a he => by simp [he, Event.isRead] at hread) (by simp [hread])
    (by simp [hlast, Event.isFinalRead_of_not_isRead hread]) (by simp [hopen, hclose, hheld]) (by simp [hopen])

/-- A read of `C` bytes while no result was final keeps the books, if `last` then says whether its result is (R35). -/
theorem SourceBooks.append_read {s t : State} {a : ReadAnswer} (h : SourceBooks s) (hcfg : t.cfg = s.cfg)
    (htrace : t.trace = s.trace ++ [.srcRead s.cfg.chunkCap a]) (hfresh : s.last = false)
    (hlast : t.last = (Event.srcRead s.cfg.chunkCap a).isFinalRead s.cfg) (hheld : t.handleOpen = s.handleOpen) :
    SourceBooks t :=
  h.append hcfg htrace (fun n a he => by cases he; rfl) (fun _ => hfresh) (by simp [hlast, hfresh])
    (by simp [Event.isOpenOk, Event.isClose, hheld]) (by simp [Event.isOpenOk])

/-- The books read nothing but the parameters, the history, `last` and `handle_open`. -/
theorem SourceBooks.of_same {s t : State} (h : SourceBooks s) (hcfg : t.cfg = s.cfg) (htrace : t.trace = s.trace)
    (hlast : t.last = s.last) (hheld : t.handleOpen = s.handleOpen) : SourceBooks t := by
  unfold SourceBooks
  rw [hcfg, htrace, hlast, hheld]
  exact h

theorem SourceBooks.fail {s : State} (h : SourceBooks s) (code : ErrCode) : SourceBooks (s.fail code) :=
  h.of_same (by simp) (by simp) (by simp) (by simp)

theorem sourceBooks_boot (c : Config) (e : Env) : SourceBooks (State.boot c e) := by
  simp [SourceBooks, State.boot]

/-- Every case of a step keeps the books. -/
theorem StepCase.sourceBooks {s t : State} (hc : StepCase s t) (hi : RegInv s) (h : SourceBooks s) : SourceBooks t := by
  have hcap : 0 < s.cfg.chunkCap := ((Config.valid_iff _).mp hi.valid).1
  cases hc with
  | reset => exact sourceBooks_boot _ _
  | waiting | halted => exact h.of_same rfl rfl rfl rfl
  | requestNotFound | busFault =>
    apply SourceBooks.fail
    exact h.append_other rfl rfl rfl rfl rfl rfl rfl
  | requestOk _ hst =>
    have hboot := hi.idle hst
    have htrace : s.trace = [] := by rw [hboot]; rfl
    have hheld : s.handleOpen = false := by rw [hboot]; rfl
    exact h.append rfl rfl nofun nofun (by simp [Event.isFinalRead]) (by simp [Event.isOpenOk, Event.isClose, hheld])
      (by simp [htrace])
  | poll | startAck | startNack | dataLast | dataMore | endOk => exact h.append_other rfl rfl rfl rfl rfl rfl rfl
  | fetchError _ _ hph =>
    have hlast := hi.fetch (.inl hph)
    apply SourceBooks.fail
    exact h.append_read rfl rfl hlast hlast rfl
  | fetchEmpty _ _ hph => exact h.append_read rfl rfl (hi.fetch (.inl hph)) (by simp [Event.isFinalRead, hcap]) rfl
  | fetchData _ _ hph => exact h.append_read rfl rfl (hi.fetch (.inl hph)) rfl rfl
  | close =>
    cases hheld : s.handleOpen with
    | false => exact h.of_same rfl (by simp) rfl hheld.symm
    | true =>
      exact h.append (e := .srcClose) rfl (by simp) nofun nofun (by simp [Event.isFinalRead])
        (by simp [Event.isOpenOk, Event.isClose, hheld]) nofun

/-- Settles O48, from the cases of a step. -/
theorem stepKeepsTheUseOfTheSource : Obligations.StepKeepsTheUseOfTheSource := by
  intro s t hi h hstep
  exact (step_next_cases hstep).2.sourceBooks hi h

end Sys2Proof.Machine

/-! SUPPORT. The frame decoder read backwards (R72): the frame a word must be to decode as it does. -/

namespace Sys2Proof

/-- The length bytes of a header are those of its length field (R49). -/
theorem lengthHigh_lengthField (op hi lo : Byte) (payload : List Byte) :
    lengthHigh (lengthField (op :: hi :: lo :: payload)) = hi := by
  apply BitVec.eq_of_toNat_eq
  simp only [lengthHigh, lengthField, BitVec.toNat_ofNat]
  omega

theorem lengthLow_lengthField (op hi lo : Byte) (payload : List Byte) :
    lengthLow (lengthField (op :: hi :: lo :: payload)) = lo := by
  apply BitVec.eq_of_toNat_eq
  simp only [lengthLow, lengthField, BitVec.toNat_ofNat]
  omega

/-- What accepted padding says: a payload is its first `n` bytes and zeros after them (R74). -/
theorem take_append_zeros {payload : List Byte} {n : Nat} (h : ¬(payload.drop n).any (· != 0) = true) :
    payload.take n ++ zeros (payload.length - n) = payload := by
  have hz : payload.drop n = zeros (payload.length - n) :=
    List.eq_replicate_iff.mpr ⟨List.length_drop, by simpa using h⟩
  rw [← hz, List.take_append_drop]

/-- What `classify` has checked of the fields of a frame it accepts, row by row (R72). -/
theorem classifyFields_eq_ok {c : Config} {op : Byte} {n : Nat} {payload : List Byte} {i : Instr}
    (h : classifyFields c op n payload = .ok i) :
    payload.take n ++ zeros (payload.length - n) = payload ∧
    ((i = .frameStart ∧ op = c.opStart ∧ n = 0) ∨ (i = .frameEnd ∧ op = c.opEnd ∧ n = 0) ∨
     (i = .frameData (payload.take n) ∧ op = c.opData ∧ 1 ≤ n ∧ n ≤ c.chunkCap)) := by
  unfold classifyFields at h
  split_ifs at h with hop hzero hdata hpad hs he <;> cases h <;> refine ⟨take_append_zeros hpad, ?_⟩
  · exact .inl ⟨rfl, hs, by_contra fun hn => hzero ⟨.inl hs, hn⟩⟩
  · exact .inr (.inl ⟨rfl, he, by_contra fun hn => hzero ⟨.inr he, hn⟩⟩)
  · have hd : op = c.opData := by_contra fun hd => hop ⟨hs, hd, he⟩
    obtain ⟨h0, hn⟩ := not_or.mp fun hbound => hdata ⟨hd, hbound⟩
    exact .inr (.inr ⟨rfl, hd, Nat.one_le_iff_ne_zero.mpr h0, Nat.le_of_not_gt hn⟩)

/-- A word that decodes as a frame is that frame, byte by byte, and a DATA frame's chunk is within its bound (R67, R72). -/
theorem decodeFrame_eq_ok {c : Config} {fr : List Byte} {i : Instr} (hv : c.valid = true)
    (h : decodeFrame c fr = .ok i) :
    (i = .frameStart ∧ fr = startFrame c) ∨ (i = .frameEnd ∧ fr = endFrame c) ∨
    ∃ b, i = .frameData b ∧ chunkOk c b = true ∧ fr = dataFrame c b := by
  obtain ⟨-, hcap, -⟩ := (Config.valid_iff c).mp hv
  unfold decodeFrame at h
  split at h
  next hlen =>
    match fr, h with
    | op :: hi :: lo :: payload, h =>
      have hlen : payload.length = c.frameSize - 3 := by simp at hlen; omega
      have hhigh := lengthHigh_lengthField op hi lo payload
      have hlow := lengthLow_lengthField op hi lo payload
      obtain ⟨hpad, hrow⟩ := classifyFields_eq_ok (n := lengthField (op :: hi :: lo :: payload)) h
      generalize lengthField (op :: hi :: lo :: payload) = n at *
      rw [hlen] at hpad
      rcases hrow with ⟨rfl, rfl, rfl⟩ | ⟨rfl, rfl, rfl⟩ | ⟨rfl, rfl, h1, hn⟩
      · exact .inl ⟨rfl, by rw [← hhigh, ← hlow, ← hpad]; rfl⟩
      · exact .inr (.inl ⟨rfl, by rw [← hhigh, ← hlow, ← hpad]; rfl⟩)
      · have hb : (payload.take n).length = n := by rw [List.length_take]; omega
        refine .inr (.inr ⟨_, rfl, (chunkOk_iff c _).mpr (by omega), ?_⟩)
        unfold dataFrame
        rw [hb, hhigh, hlow, List.append_assoc, hpad]
        rfl
  next => cases h

end Sys2Proof

/-! SUPPORT. What a step is where no case of its result is asked for: its refusal of invalid parameters, the operation it runs
(R100), and the obligations that turn on these. -/

namespace Sys2Proof.Machine

/-! ### The frames and their transactions -/

/-- Settles O32: a frame's meaning builds it and runs the transaction, at the same control point. -/
theorem frameInstructionIsItsTransaction : Obligations.FrameInstructionIsItsTransaction := by
  intro s
  refine ⟨rfl, fun b hb => ?_, rfl⟩
  change execFrameData b s = execOpXactData (buildData b s)
  unfold execFrameData
  rw [if_pos hb]
  rfl

/-! ### The step by its selection -/

/-- Parameters outside R11 to R13 refuse every step (log 13). -/
theorem step_of_invalid {s : State} (h : s.cfg.valid = false) : step s = .refused .badConfig := by
  simp [step, advance, h]

/-- Without `RESET`, a step is the operation its control point selects (R100); OP_REQUEST needs `REQUEST`. -/
theorem step_eq_exec {s : State} {i : Instr} (hv : s.cfg.valid = true) (hr : (hostNow s).reset = false)
    (hd : decodePoint s.st s.ph = .ok i) (hq : i = .opRequest → (hostNow s).request = true) :
    step s = exec i s.takeHost := by
  have hsel : selected s = .ok i := (decodeControl_controlWord _ _).trans hd
  unfold step advance
  rw [if_pos hv, hr, hsel]
  cases i with
  | opRequest => simp [hq]
  | _ => rfl

/-- Settles O13: each disjunct breaks one clause of `Config.valid_iff`. -/
theorem invalidParametersAreRefused : Obligations.InvalidParametersAreRefused := by
  intro s h
  apply step_of_invalid
  rw [Bool.eq_false_iff]
  intro hv
  obtain ⟨h1, hf, hc, hsd, hse, hde, ha⟩ := (Config.valid_iff _).mp hv
  rcases h with h | h | h | h | h | h | h
  · omega
  · omega
  · omega
  · exact hsd h
  · exact hse h
  · exact hde h
  · omega

/-- Writing a whole buffer that is there already changes nothing. -/
theorem State.storeTx_self {s : State} {bytes : List Byte} (h : s.tx = Memory.ofBytes bytes) : s.storeTx bytes = s := by
  rw [State.storeTx, ← h]

/-- Settles O10: the frame in `tx` is the one the decoder names, so building it again changes nothing, and its transaction is
the operation the control point selects. -/
theorem stepSendsTheFrameInTheBuffer : Obligations.StepSendsTheFrameInTheBuffer := by
  intro s fr i hv hr hph htx hdec hpoint
  obtain ⟨hstart, hdata, hend⟩ := frameInstructionIsItsTransaction s.takeHost
  have hsame : s.takeHost.storeTx fr = s.takeHost := State.storeTx_self htx
  rcases hpoint with ⟨rfl, hst⟩ | ⟨rfl, hst⟩ | ⟨⟨b, rfl⟩, hst⟩
  · obtain rfl : fr = startFrame s.cfg := by simpa using decodeFrame_eq_ok hv hdec
    rw [step_eq_exec (i := .opXactStart) hv hr (by rw [hst, hph]; rfl) nofun, hstart]
    exact congrArg (exec .opXactStart) hsame.symm
  · obtain rfl : fr = endFrame s.cfg := by simpa using decodeFrame_eq_ok hv hdec
    rw [step_eq_exec (i := .opXactEnd) hv hr (by rw [hst, hph]; rfl) nofun, hend]
    exact congrArg (exec .opXactEnd) hsame.symm
  · obtain ⟨hb, rfl⟩ : chunkOk s.cfg b = true ∧ fr = dataFrame s.cfg b := by simpa using decodeFrame_eq_ok hv hdec
    rw [step_eq_exec (i := .opXactData) hv hr (by rw [hst, hph]; rfl) nofun, hdata b hb]
    exact congrArg (exec .opXactData) hsame.symm

/-! ### One collaborator call a step -/

/-- What each case of a step does to the history (R7). -/
theorem StepCase.trace {s t : State} (h : StepCase s t) :
    (hostNow s).reset = true ∧ t.trace = [] ∨ t.trace = s.trace ∨ ∃ e, t.trace = s.trace ++ [e] := by
  cases h with
  | reset hr => exact .inl ⟨hr, rfl⟩
  | waiting | halted => exact .inr (.inl rfl)
  | requestNotFound | busFault | fetchError => exact .inr (.inr ⟨_, State.fail_trace _ _⟩)
  | requestOk | poll | startAck | startNack | fetchEmpty | fetchData | dataLast | dataMore | endOk =>
    exact .inr (.inr ⟨_, rfl⟩)
  | close =>
    cases hheld : s.handleOpen with
    | false => exact .inr (.inl (by simp))
    | true => exact .inr (.inr ⟨.srcClose, by simp⟩)

/-- Settles O39, from the cases of a step. -/
theorem stepMakesAtMostOneCollaboratorCall : Obligations.StepMakesAtMostOneCollaboratorCall := by
  intro s t h
  exact ⟨step_next_cfg h, (step_next_cases h).2.trace⟩

end Sys2Proof.Machine

/-! SUPPORT. `BIT_ORDER` is read by no rule (R15, R51): every operation commutes with changing it. An operation that answers more
than a state answers the same beside the state. -/

namespace Sys2Proof.Machine

/-! ### Outcomes under a function -/

/-- An outcome with a function applied to what it goes on with; where it stops, it stops likewise. -/
def mapNext {α β : Type} (f : α → β) (x : Host.Outcome α Fault Refusal) : Host.Outcome β Fault Refusal :=
  andThen x fun a => .next (f a)

theorem outcomeWithBitOrder_eq_mapNext (o : BitOrder) (x : Host.Outcome State Fault Refusal) :
    outcomeWithBitOrder o x = mapNext (·.withBitOrder o) x := by
  cases x <;> rfl

/-- If an operation commutes with `f`, and what follows commutes at each of its answers, so does their chain. -/
theorem andThen_commutes {α β : Type} {f : α → α} {k : β → β} {x y : Host.Outcome α Fault Refusal}
    {g h : α → Host.Outcome β Fault Refusal} (hx : y = mapNext f x) (hg : ∀ a, h (f a) = mapNext k (g a)) :
    andThen y h = mapNext k (andThen x g) := by
  subst hx
  cases x with
  | next a => exact hg a
  | fault | refused => rfl

/-- The same for a first operation that is not affected at all. -/
theorem andThen_commutes_same {α β : Type} {k : β → β} {x : Host.Outcome α Fault Refusal}
    {g h : α → Host.Outcome β Fault Refusal} (hg : ∀ a, h a = mapNext k (g a)) :
    andThen x h = mapNext k (andThen x g) := by
  cases x with
  | next a => exact hg a
  | fault | refused => rfl

/-- A choice commutes if both of its branches do. -/
theorem ite_commutes {α β : Type} {p : Prop} [Decidable p] {k : α → β} {x z : Host.Outcome α Fault Refusal}
    {y w : Host.Outcome β Fault Refusal} (hx : y = mapNext k x) (hz : w = mapNext k z) :
    (if p then y else w) = mapNext k (if p then x else z) := by
  split
  · exact hx
  · exact hz

/-! ### The shared operations -/

section
variable (s : State) (o : BitOrder)

theorem fail_withBitOrder (code : ErrCode) : (s.withBitOrder o).fail code = (s.fail code).withBitOrder o := by
  unfold State.fail State.withBitOrder
  split <;> rfl

theorem afterTransact_withBitOrder (bytes : List Byte) :
    afterTransact (s.withBitOrder o) bytes = (afterTransact s bytes).withBitOrder o := by
  have hbus : busNow (s.withBitOrder o) = busNow s := rfl
  unfold afterTransact
  rw [hbus]
  cases busNow s <;> rfl

theorem srcOpen_withBitOrder :
    srcOpen (s.withBitOrder o) = mapNext (Prod.map id (·.withBitOrder o)) (srcOpen s) :=
  ite_commutes rfl rfl

theorem srcRead_withBitOrder (n : Nat) :
    srcRead n (s.withBitOrder o) = mapNext (Prod.map id (·.withBitOrder o)) (srcRead n s) :=
  ite_commutes rfl rfl

theorem transact_withBitOrder :
    transact (s.withBitOrder o) = mapNext (Prod.map id (Prod.map id (·.withBitOrder o))) (transact s) := by
  refine andThen_commutes_same fun bytes => ite_commutes ?_ rfl
  exact congrArg (fun u => Host.Outcome.next (bytes, busNow s, u)) (afterTransact_withBitOrder s o bytes)

theorem opOpen_withBitOrder :
    opOpen (s.withBitOrder o) = mapNext (Prod.map id (·.withBitOrder o)) (opOpen s) :=
  andThen_commutes (srcOpen_withBitOrder s o) fun
    | (.ok _, _) => rfl
    | (.notFound, _) => rfl

theorem opRead_withBitOrder (n : Nat) :
    opRead n (s.withBitOrder o) = mapNext (Prod.map id (·.withBitOrder o)) (opRead n s) :=
  andThen_commutes (srcRead_withBitOrder s o n) fun
    | (.chunk _ _, _) => rfl
    | (.readError, _) => rfl

/-! ### The transactions -/

theorem transactStart_withBitOrder :
    transactStart (s.withBitOrder o) = mapNext (·.withBitOrder o) (transactStart s) :=
  andThen_commutes (transact_withBitOrder s o) fun
    | (_, .fault, u) => congrArg _ (fail_withBitOrder u o .busFault)
    | (_, .ok _, u) => andThen_commutes_same (x := readRx u s.cfg.ackIndex) fun _ => ite_commutes rfl rfl

theorem transactData_withBitOrder :
    transactData (s.withBitOrder o) = mapNext (·.withBitOrder o) (transactData s) :=
  andThen_commutes (transact_withBitOrder s o) fun
    | (_, .fault, u) => congrArg _ (fail_withBitOrder u o .busFault)
    | (_, .ok _, _) => ite_commutes rfl rfl

theorem transactEnd_withBitOrder :
    transactEnd (s.withBitOrder o) = mapNext (·.withBitOrder o) (transactEnd s) :=
  andThen_commutes (transact_withBitOrder s o) fun
    | (_, .fault, u) => congrArg _ (fail_withBitOrder u o .busFault)
    | (_, .ok _, _) => rfl

/-! ### The meanings and the step -/

theorem execOpRequest_withBitOrder :
    execOpRequest (s.withBitOrder o) = mapNext (·.withBitOrder o) (execOpRequest s) := by
  refine ite_commutes (andThen_commutes (opOpen_withBitOrder s o) fun r => ?_) rfl
  match r with
  | (.ok, _) => rfl
  | (.notFound, u) => exact congrArg _ (fail_withBitOrder u o .notFound)

theorem execOpFetch_withBitOrder :
    execOpFetch (s.withBitOrder o) = mapNext (·.withBitOrder o) (execOpFetch s) := by
  refine ite_commutes (andThen_commutes (opRead_withBitOrder s o s.cfg.chunkCap) fun r => ?_) rfl
  match r with
  | (.readError, u) => exact congrArg _ (fail_withBitOrder u o .readError)
  | (.empty, _) | (.data _, _) => rfl

theorem execOpClose_withBitOrder (st : Session) :
    execOpClose st (s.withBitOrder o) = mapNext (·.withBitOrder o) (execOpClose st s) := by
  refine ite_commutes ?_ rfl
  obtain ⟨cfg, st, ph, err, tx, rx, total, read, sent, seq, last, held, mismatch, trace, env⟩ := s
  cases held <;> rfl

/-- Every meaning commutes with a change of `BIT_ORDER`. -/
theorem exec_withBitOrder (i : Instr) : exec i (s.withBitOrder o) = mapNext (·.withBitOrder o) (exec i s) := by
  cases i with
  | frameStart => exact ite_commutes (transactStart_withBitOrder (buildStart s) o) rfl
  | frameData b => exact ite_commutes (ite_commutes (transactData_withBitOrder (buildData b s) o) rfl) rfl
  | frameEnd => exact ite_commutes (transactEnd_withBitOrder (buildEnd s) o) rfl
  | opRequest => exact execOpRequest_withBitOrder s o
  | opXactStart => exact ite_commutes (transactStart_withBitOrder s o) rfl
  | opFetch => exact execOpFetch_withBitOrder s o
  | opXactData => exact ite_commutes (transactData_withBitOrder s o) rfl
  | opXactEnd => exact ite_commutes (transactEnd_withBitOrder s o) rfl
  | opClose st => exact execOpClose_withBitOrder s o st
  | opOpen => exact andThen_commutes (opOpen_withBitOrder s o) fun _ => rfl
  | opRead n => exact andThen_commutes (opRead_withBitOrder s o n) fun _ => rfl
  | opPoll | opBuildData => exact ite_commutes rfl rfl
  | opSrcClose | opBuildStart | opBuildEnd => rfl

/-- A step checks the parameters, takes the host's events and selects its operation without reading `BIT_ORDER`. -/
theorem step_withBitOrder : step (s.withBitOrder o) = mapNext (·.withBitOrder o) (step s) := by
  have hsel : selected (s.withBitOrder o) = selected s := rfl
  unfold step advance
  rw [hsel]
  refine ite_commutes (ite_commutes rfl ?_) rfl
  cases selected s with
  | ok i =>
    cases i with
    | opRequest => exact ite_commutes (exec_withBitOrder s.takeHost o .opRequest) rfl
    | _ => exact exec_withBitOrder s.takeHost o _
  | reject r => cases r <;> rfl

end

/-- Settles O42: a step commutes with the change, as each operation it can select does. -/
theorem bitOrderIsReadByNoRule : Obligations.BitOrderIsReadByNoRule := by
  intro s o
  rw [step_withBitOrder, outcomeWithBitOrder_eq_mapNext]

end Sys2Proof.Machine

/-! SUPPORT. The table of control points read both ways (R27), and the step in each of its outcomes (R100, R111, R134). -/

namespace Sys2Proof.Machine

/-! ### The table of control points -/

/-- The rows of R27 that select an operation. -/
theorem decodePoint_eq_ok {st : Session} {ph : Phase} {i : Instr} (h : decodePoint st ph = .ok i) :
    (st = .idle ∧ ph = .halt ∧ i = .opRequest) ∨
    ((st = .await ∨ st = .xfer ∨ st = .compl) ∧ ph = .wait ∧ i = .opPoll st) ∨
    (st = .await ∧ ph = .issue ∧ i = .opXactStart) ∨ (st = .xfer ∧ ph = .fetch ∧ i = .opFetch) ∨
    (st = .xfer ∧ ph = .issue ∧ i = .opXactData) ∨ (st = .compl ∧ ph = .issue ∧ i = .opXactEnd) ∨
    ((st = .completed ∨ st = .failed) ∧ ph = .close ∧ i = .opClose st) := by
  unfold decodePoint at h
  split at h <;> cases h <;> simp

/-- The rows of R27 select an operation or say "no step". -/
theorem decodePoint_of_reachable {st : Session} {ph : Phase} (h : (st, ph) ∈ reachablePoints) :
    (∃ i, decodePoint st ph = .ok i) ∨ decodePoint st ph = .reject .noStep := by
  simp only [reachablePoints, List.mem_cons, Prod.mk.injEq, List.not_mem_nil, or_false] at h
  rcases h with h | h | h | h | h | h | h | h | h | h | h | h <;> obtain ⟨rfl, rfl⟩ := h <;> simp [decodePoint]

/-- Every other pair is rejected as unreachable. -/
theorem decodePoint_of_unreachable {st : Session} {ph : Phase} (h : (st, ph) ∉ reachablePoints) :
    decodePoint st ph = .reject .unreachable := by
  revert h
  cases st <;> cases ph <;> simp [reachablePoints, decodePoint]

/-! ### The step -/

/-- The word of a control point selects what the pair decodes to (R80). -/
theorem selected_eq {s : State} {d : Decoded} (hd : decodePoint s.st s.ph = d) : selected s = d :=
  (decodeControl_controlWord _ _).trans hd

theorem step_of_reset {s : State} (hv : s.cfg.valid = true) (hr : (hostNow s).reset = true) :
    step s = .next (State.boot s.cfg s.takeHost.env) := by
  unfold step advance
  rw [if_pos hv, if_pos hr]
  rfl

section
variable {s : State} (hv : s.cfg.valid = true) (hr : (hostNow s).reset = false)
include hv hr

theorem step_of_waiting (hd : decodePoint s.st s.ph = .ok .opRequest) (hq : (hostNow s).request = false) :
    step s = .next s.takeHost := by
  unfold step advance
  rw [if_pos hv, hr, hq, selected_eq hd]
  rfl

theorem step_of_noStep (hd : decodePoint s.st s.ph = .reject .noStep) : step s = .next s.takeHost := by
  unfold step advance
  rw [if_pos hv, hr, selected_eq hd]
  rfl

theorem step_of_unreachable (hd : decodePoint s.st s.ph = .reject .unreachable) :
    step s = .refused .unreachablePoint := by
  unfold step advance
  rw [if_pos hv, hr, selected_eq hd]
  rfl

end

/-! ### The transactions at their control point -/

section
variable {s : State} (hph : s.ph = .issue)
include hph

theorem exec_opXactStart_of_isAt (hst : s.st = .await) : exec .opXactStart s = transactStart s :=
  if_pos ((State.isAt_iff ..).mpr ⟨hst, hph⟩)

theorem exec_opXactData_of_isAt (hst : s.st = .xfer) : exec .opXactData s = transactData s :=
  if_pos ((State.isAt_iff ..).mpr ⟨hst, hph⟩)

theorem exec_opXactEnd_of_isAt (hst : s.st = .compl) : exec .opXactEnd s = transactEnd s :=
  if_pos ((State.isAt_iff ..).mpr ⟨hst, hph⟩)

end

/-! ### The statements that turn on the selection -/

/-- Settles O14: outside R27 the control point decodes to no operation. -/
theorem unreachableControlPointIsRefused : Obligations.UnreachableControlPointIsRefused := by
  intro s hv hr hpoint
  exact step_of_unreachable hv hr (decodePoint_of_unreachable hpoint)

/-- Settles O6: the step is the reset state, in front of what the host's events leave of the environment. -/
theorem resetGivesEveryElementItsResetValue : Obligations.ResetGivesEveryElementItsResetValue := by
  intro s hv hr
  exact ⟨_, step_of_reset hv hr, rfl, rfl, rfl, rfl, rfl, rfl, rfl, rfl, rfl, rfl, fun _ => ⟨rfl, rfl⟩, rfl, rfl, rfl⟩

/-- Settles O11: the terminal states select no step, and `(IDLE, HALT)` waits for `REQUEST`. -/
theorem haltedBlockStaysAsItIs : Obligations.HaltedBlockStaysAsItIs := by
  intro s hv hr hph hst
  rcases hst with hst | hst | ⟨hst, hq⟩
  · exact step_of_noStep hv hr (by rw [hst, hph]; rfl)
  · exact step_of_noStep hv hr (by rw [hst, hph]; rfl)
  · exact step_of_waiting hv hr (by rw [hst, hph]; rfl) hq

/-- Settles O9: the control point decodes as the pair it was made of, and its operand is the session state. -/
theorem stepRunsTheSelectedOperation : Obligations.StepRunsTheSelectedOperation := by
  intro s i hv hr hd hq
  rw [decodeControl_controlWord] at hd
  refine ⟨?_, step_eq_exec hv hr hd hq, rfl⟩
  rcases decodePoint_eq_ok hd with ⟨-, -, rfl⟩ | ⟨hst, -, rfl⟩ | ⟨-, -, rfl⟩ | ⟨-, -, rfl⟩ | ⟨-, -, rfl⟩ | ⟨-, -, rfl⟩ |
    ⟨hst, -, rfl⟩
  · rfl
  · simpa [Instr.wellFormed] using hst
  · rfl
  · rfl
  · rfl
  · rfl
  · simpa [Instr.wellFormed] using hst

end Sys2Proof.Machine

/-! SUPPORT. The invariant of the registers and buffers (R27 to R37, R109): what it says right after reset, in an open session
and after a failure, and the step that keeps it. -/

namespace Sys2Proof.Machine

/-! ### Counters and buffers -/

/-- A counter stays a `CNT_W`-bit value (R96). -/
theorem addW_lt (c : Config) (a b : Nat) : addW c a b < 2 ^ c.cntW :=
  Nat.mod_lt _ (Nat.two_pow_pos _)

/-- The bound of `CHUNK_CAP` is the rest of a chunk's precondition (R11, R66). -/
theorem chunkOk_of_valid {c : Config} {b : List Byte} (hv : c.valid = true) (h1 : 1 ≤ b.length)
    (hcap : b.length ≤ c.chunkCap) : chunkOk c b = true := by
  obtain ⟨-, hsize, -⟩ := (Config.valid_iff c).mp hv
  exact (chunkOk_iff c b).mpr ⟨h1, hcap, hsize⟩

theorem wholeBuffer_ofBytes {c : Config} {bytes : List Byte} (h : bytes.length = c.frameSize) :
    WholeBuffer c (Memory.ofBytes bytes) :=
  .inr ⟨bytes, h, rfl⟩

/-! ### The frame in `tx` (R109) -/

theorem frameReady_of_phase {t : State} (hw : t.ph ≠ .wait) (hi : t.ph ≠ .issue) : FrameReady t :=
  fun h => absurd h (not_or.mpr ⟨hw, hi⟩)

theorem frameReady_start {t : State} (hst : t.st = .await) (htx : t.tx = Memory.ofBytes (startFrame t.cfg)) :
    FrameReady t :=
  fun _ => ⟨fun _ => htx, by simp [hst], by simp [hst]⟩

theorem frameReady_data {t : State} {b : List Byte} (hst : t.st = .xfer) (hb : chunkOk t.cfg b = true)
    (htx : t.tx = Memory.ofBytes (dataFrame t.cfg b)) (hlast : t.last = lastFlag t.cfg b.length) : FrameReady t :=
  fun _ => ⟨by simp [hst], fun _ => ⟨b, hb, htx, hlast⟩, by simp [hst]⟩

theorem frameReady_end {t : State} (hst : t.st = .compl) (htx : t.tx = Memory.ofBytes (endFrame t.cfg))
    (hlast : t.last = true) : FrameReady t :=
  fun _ => ⟨by simp [hst], by simp [hst], fun _ => ⟨htx, hlast⟩⟩

/-! ### The invariant in each part of a session -/

theorem regInv_boot {c : Config} (e : Env) (hv : c.valid = true) : RegInv (State.boot c e) where
  valid := hv
  point := by simp [reachablePoints]
  idle _ := rfl
  counters := by simp [State.boot]
  txWhole := .inl rfl
  rxWhole := .inl rfl
  frame := frameReady_of_phase nofun nofun
  fetch _ := rfl
  handle := by simp [State.boot]
  cause := by simp [State.boot]
  mismatch := by simp [State.boot, mismatchFlag]

/-- The environment is no register: the invariant holds in front of any other (R22). -/
theorem RegInv.withEnv {s : State} (h : RegInv s) (e : Env) : RegInv { s with env := e } :=
  { h with idle := fun hst => congrArg (fun u : State => { u with env := e }) (h.idle hst) }

/-- The flags of a block whose session is open: the handle is held, no cause is recorded, `mismatch` is not written yet. -/
structure OpenSession (t : State) : Prop where
  st : t.st = .await ∨ t.st = .xfer ∨ t.st = .compl
  held : t.handleOpen = true
  err : t.err = .none
  mismatch : t.mismatch = false

/-- In an open session the block is neither halted nor closing (R27). -/
theorem phase_of_session {st : Session} {ph : Phase} (hp : (st, ph) ∈ reachablePoints)
    (hst : st = .await ∨ st = .xfer ∨ st = .compl) : ph ≠ .halt ∧ ph ≠ .close := by
  rcases hst with rfl | rfl | rfl <;> simp [reachablePoints] at hp <;> rcases hp with rfl | rfl | rfl <;> simp

theorem RegInv.openSession {s : State} (h : RegInv s) (hst : s.st = .await ∨ s.st = .xfer ∨ s.st = .compl) :
    OpenSession s where
  st := hst
  held := h.handle.mpr (hst.imp_right fun h => h.imp_right .inl)
  err := by
    by_contra herr
    have hfailed := h.cause.1.mp herr
    simp [hfailed] at hst
  mismatch := by simp [h.mismatch, (phase_of_session h.point hst).1]

/-- A session stays open as long as its flags stand. -/
theorem OpenSession.of_same {s t : State} (h : OpenSession s) (hst : t.st = .await ∨ t.st = .xfer ∨ t.st = .compl)
    (hheld : t.handleOpen = s.handleOpen) (herr : t.err = s.err) (hmis : t.mismatch = s.mismatch) : OpenSession t :=
  ⟨hst, hheld.trans h.held, herr.trans h.err, hmis.trans h.mismatch⟩

/-- In an open session the invariant is what it says of the control point, the counters, the buffers and `last`. -/
theorem OpenSession.regInv {t : State} (h : OpenSession t) (hv : t.cfg.valid = true)
    (hpoint : (t.st, t.ph) ∈ reachablePoints)
    (hcounters : t.totalSize < 2 ^ t.cfg.cntW ∧ t.bytesRead < 2 ^ t.cfg.cntW ∧
      t.bytesSent < 2 ^ t.cfg.cntW ∧ t.seq < 2 ^ t.cfg.cntW)
    (htx : WholeBuffer t.cfg t.tx) (hrx : WholeBuffer t.cfg t.rx) (hframe : FrameReady t)
    (hfetch : t.ph = .fetch ∨ t.st = .await → t.last = false) : RegInv t := by
  obtain ⟨hst, hheld, herr, hmis⟩ := h
  obtain ⟨hhalt, hclose⟩ := phase_of_session hpoint hst
  have hfailed : t.st ≠ .failed := fun hf => by simp [hf] at hst
  have hidle : t.st ≠ .idle := fun hf => by simp [hf] at hst
  exact
    { valid := hv, point := hpoint, counters := hcounters, txWhole := htx, rxWhole := hrx, frame := hframe, fetch := hfetch
      idle := fun hf => absurd hf hidle
      handle := ⟨fun _ => hst.imp_right fun h => h.imp_right .inl, fun _ => hheld⟩
      cause := ⟨by simp [herr, hfailed], fun hc => absurd hc hclose⟩
      mismatch := by simp [hmis, hhalt] }

/-- `Fail` keeps the invariant, from the control points that call it (R135): the handle is held exactly if the block
is not halted, and a cause is `NOT_FOUND` only without it. Before `Fail`, `rx`, the history and the environment may change. -/
theorem RegInv.fail {s : State} {rx : Memory} {tr : List Event} {e : Env} {code : ErrCode} (h : RegInv s)
    (hrx : WholeBuffer s.cfg rx) (hcode : code ≠ .none) (hheld : s.handleOpen = true ↔ s.ph ≠ .halt)
    (hfound : s.handleOpen = true → code ≠ .notFound) :
    RegInv (({ s with rx := rx, trace := tr, env := e } : State).fail code) where
  valid := by simpa using h.valid
  point := by cases s.handleOpen <;> simp [reachablePoints]
  idle := by simp
  counters := by simpa using h.counters
  txWhole := by simpa using h.txWhole
  rxWhole := by simpa using hrx
  frame := by apply frameReady_of_phase <;> cases s.handleOpen <;> simp
  fetch := by cases s.handleOpen <;> simp
  handle := by simp
  cause := ⟨by simp [hcode], by simpa using hfound⟩
  mismatch := by
    have hph := h.mismatch
    cases ho : s.handleOpen with
    | false => simpa [ho, show s.ph = .halt by simpa [ho] using hheld] using hph
    | true => simpa [ho, hheld.mp ho] using hph

/-- A failure in an open session (R127, R128). -/
theorem RegInv.fail_openSession {s : State} {rx : Memory} {tr : List Event} {e : Env} {code : ErrCode} (h : RegInv s)
    (hst : s.st = .await ∨ s.st = .xfer ∨ s.st = .compl) (hrx : WholeBuffer s.cfg rx) (hcode : code ≠ .none)
    (hfound : code ≠ .notFound) : RegInv (({ s with rx := rx, trace := tr, env := e } : State).fail code) :=
  h.fail hrx hcode (by simp [(h.openSession hst).held, (phase_of_session h.point hst).1]) fun _ => hfound

/-! ### The step -/

/-- Every case of a step keeps the invariant. -/
theorem StepCase.regInv {s t : State} (hc : StepCase s t) (h : RegInv s) : RegInv t := by
  have hv := h.valid
  obtain ⟨htotal, hread, hsent, hseq⟩ := h.counters
  have hstart := wholeBuffer_ofBytes (length_startFrame hv)
  have hend := wholeBuffer_ofBytes (length_endFrame hv)
  cases hc with
  | reset => exact regInv_boot _ hv
  | waiting | halted => exact h.withEnv _
  | requestNotFound _ hst hph =>
    have hheld : s.handleOpen = false := congrArg State.handleOpen (h.idle hst)
    exact h.fail h.rxWhole nofun (by simp [hheld, hph]) (by simp [hheld])
  | requestOk _ hst _ size _ hs =>
    have hboot := h.idle hst
    have herr : s.err = .none := congrArg State.err hboot
    have hmis : s.mismatch = false := congrArg State.mismatch hboot
    exact OpenSession.regInv ⟨.inl rfl, rfl, herr, hmis⟩ hv (by simp [reachablePoints])
      ⟨hs, Nat.two_pow_pos _, Nat.two_pow_pos _, Nat.two_pow_pos _⟩ hstart h.rxWhole (frameReady_start rfl rfl)
      fun _ => congrArg State.last hboot
  | poll _ hst hph =>
    refine OpenSession.regInv ((h.openSession hst).of_same hst rfl rfl rfl) hv ?_ h.counters h.txWhole h.rxWhole
      (fun _ => h.frame (.inl hph)) fun hf => h.fetch (hf.imp_left fun hf => ?_)
    · rcases hst with hst | hst | hst <;> simp only [hst] <;> split <;> simp [reachablePoints]
    · simp only at hf
      split at hf <;> cases hf
  | busFault _ hst _ bytes => exact h.fail_openSession hst (wholeBuffer_ofBytes (length_drawBytes _ _)) nofun nofun
  | startAck _ hst _ bytes rb _ _ _ hl =>
    refine OpenSession.regInv ((h.openSession (.inl hst)).of_same (.inr (.inl rfl)) rfl rfl rfl) hv ?_ h.counters
      h.txWhole (wholeBuffer_ofBytes hl) (frameReady_of_phase nofun nofun) fun _ => h.fetch (.inr hst)
    simp [reachablePoints]
  | startNack _ hst _ bytes rb _ _ hl =>
    refine OpenSession.regInv ((h.openSession (.inl hst)).of_same (.inl rfl) rfl rfl rfl) hv ?_ h.counters hstart
      (wholeBuffer_ofBytes hl) (frameReady_start rfl rfl) fun _ => h.fetch (.inr hst)
    simp [reachablePoints]
  | fetchError _ hst => exact h.fail_openSession (.inr (.inl hst)) h.rxWhole nofun nofun
  | fetchEmpty _ hst =>
    refine OpenSession.regInv ((h.openSession (.inr (.inl hst))).of_same (.inr (.inr rfl)) rfl rfl rfl) hv ?_
      ⟨htotal, addW_lt _ _ _, hsent, hseq⟩ hend h.rxWhole (frameReady_end rfl rfl rfl) (by simp)
    simp [reachablePoints]
  | fetchData _ hst _ b _ h1 hcap =>
    have hb := chunkOk_of_valid hv h1 hcap
    refine OpenSession.regInv ((h.openSession (.inr (.inl hst))).of_same (.inr (.inl rfl)) rfl rfl rfl) hv ?_
      ⟨htotal, addW_lt _ _ _, hsent, hseq⟩ (wholeBuffer_ofBytes (length_dataFrame hb)) h.rxWhole
      (frameReady_data rfl hb rfl rfl) (by simp)
    simp [reachablePoints]
  | dataLast _ hst _ bytes rb _ _ hl hlast =>
    refine OpenSession.regInv ((h.openSession (.inr (.inl hst))).of_same (.inr (.inr rfl)) rfl rfl rfl) hv ?_
      ⟨htotal, hread, addW_lt _ _ _, addW_lt _ _ _⟩ hend (wholeBuffer_ofBytes hl) (frameReady_end rfl rfl hlast)
      (by simp)
    simp [reachablePoints]
  | dataMore _ hst _ bytes rb _ _ hl hlast =>
    refine OpenSession.regInv ((h.openSession (.inr (.inl hst))).of_same (.inr (.inl rfl)) rfl rfl rfl) hv ?_
      ⟨htotal, hread, addW_lt _ _ _, addW_lt _ _ _⟩ h.txWhole (wholeBuffer_ofBytes hl) (frameReady_of_phase nofun nofun)
      fun _ => hlast
    simp [reachablePoints]
  | endOk _ hst _ bytes rb _ _ hl =>
    obtain ⟨-, hheld, herr, hmis⟩ := h.openSession (.inr (.inr hst))
    exact
      { h with
        point := by simp [reachablePoints], idle := nofun, rxWhole := wholeBuffer_ofBytes hl
        frame := frameReady_of_phase nofun nofun, fetch := nofun, handle := by simp [hheld], cause := by simp [herr]
        mismatch := by simp [hmis] }
  | close _ hst hph =>
    obtain ⟨hidle, hawait, hxfer, hcompl⟩ : s.st ≠ .idle ∧ s.st ≠ .await ∧ s.st ≠ .xfer ∧ s.st ≠ .compl := by
      rcases hst with hst | hst <;> simp [hst]
    exact
      { h with
        point := by rcases hst with hst | hst <;> simp [hst, reachablePoints]
        idle := fun hf => absurd hf hidle, frame := frameReady_of_phase nofun nofun, fetch := by simp [hawait]
        handle := by simp [hawait, hxfer, hcompl], cause := ⟨h.cause.1, nofun⟩, mismatch := by simp }

/-- Settles O44, from the cases of a step. -/
theorem stepKeepsTheRegisterInvariant : Obligations.StepKeepsTheRegisterInvariant := by
  intro s t h hstep
  exact (step_next_cases hstep).2.regInv h

end Sys2Proof.Machine

/-! SUPPORT. Readiness gating (R40, R108): one event more in the history, and the step that keeps it. -/

namespace Sys2Proof.Machine

/-- Every transaction of the history comes after an unused sample `true` (R108): the first clause of `ReadinessGated`. -/
def TransactionsGated (tr : List Event) : Prop :=
  ∀ pre tx n a post, tr = pre ++ .transact tx n a :: post → unusedSample pre = some true

/-- One event more keeps the gating, if it is no transaction or a sample `true` is unused. -/
theorem TransactionsGated.append {tr : List Event} {e : Event} (h : TransactionsGated tr)
    (he : ∀ tx n a, e = .transact tx n a → unusedSample tr = some true) : TransactionsGated (tr ++ [e]) := by
  intro pre tx n a post hsplit
  rcases append_single_split hsplit with ⟨rfl, hx, -⟩ | ⟨post', -, htr⟩
  · exact he tx n a hx.symm
  · exact h pre tx n a post' htr

/-- A sample `true` is what brings the block to `ISSUE` (R102). -/
theorem ReadinessGated.append_ready {s t : State} {b : Bool} (h : ReadinessGated s)
    (htrace : t.trace = s.trace ++ [.ready b]) (hph : t.ph = .issue ↔ b = true) : ReadinessGated t := by
  unfold ReadinessGated
  rw [htrace, unusedSample_append]
  exact ⟨TransactionsGated.append h.1 nofun, by simp [hph]⟩

/-- A transaction at `ISSUE` uses the sample that brought the block there, so the block leaves `ISSUE` with it. -/
theorem ReadinessGated.append_transact {s t : State} {tx : List Byte} {n : Nat} {a : BusAnswer} (h : ReadinessGated s)
    (hissue : s.ph = .issue) (htrace : t.trace = s.trace ++ [.transact tx n a]) (hph : t.ph ≠ .issue) :
    ReadinessGated t := by
  unfold ReadinessGated
  rw [htrace, unusedSample_append]
  exact ⟨TransactionsGated.append h.1 fun _ _ _ _ => h.2.mp hissue, by simp [hph]⟩

/-- A call of the source is no sample and no transaction: away from `ISSUE` it changes nothing of the gating. -/
theorem ReadinessGated.append_source {s t : State} {e : Event} (h : ReadinessGated s)
    (he : e ∈ sourceTrace [e]) (htrace : t.trace = s.trace ++ [e]) (hs : s.ph ≠ .issue) (ht : t.ph ≠ .issue) :
    ReadinessGated t := by
  cases e with
  | ready | transact => simp [sourceTrace] at he
  | srcOpen | srcRead | srcClose =>
    unfold ReadinessGated
    rw [htrace, unusedSample_append]
    exact ⟨TransactionsGated.append h.1 nofun, by simpa [ht] using hs ∘ h.2.mpr⟩

/-- The gating reads nothing but the history and whether `ph` is `ISSUE`. -/
theorem ReadinessGated.of_same {s t : State} (h : ReadinessGated s) (htrace : t.trace = s.trace)
    (hph : t.ph = .issue ↔ s.ph = .issue) : ReadinessGated t := by
  unfold ReadinessGated
  rw [hph, htrace]
  exact h

theorem readinessGated_boot (c : Config) (e : Env) : ReadinessGated (State.boot c e) := by
  simp [ReadinessGated, unusedSample]

/-- `Fail` never goes to `ISSUE` (R135). -/
theorem State.fail_ph_ne_issue (s : State) (code : ErrCode) : (s.fail code).ph ≠ .issue := by
  rw [State.fail_ph]
  split <;> nofun

/-- Every case of a step keeps the gating. -/
theorem StepCase.readinessGated {s t : State} (hc : StepCase s t) (h : ReadinessGated s) : ReadinessGated t := by
  cases hc with
  | reset => exact readinessGated_boot _ _
  | waiting | halted => exact h.of_same rfl .rfl
  | poll =>
    refine h.append_ready rfl ?_
    cases sampleNow s.takeHost <;> simp
  | busFault _ _ hph => exact h.append_transact hph (State.fail_trace _ _) (State.fail_ph_ne_issue _ _)
  | startAck _ _ hph | startNack _ _ hph | dataLast _ _ hph | dataMore _ _ hph | endOk _ _ hph =>
    exact h.append_transact hph rfl nofun
  | requestNotFound _ _ hph | fetchError _ _ hph =>
    exact h.append_source (by simp [sourceTrace]) (State.fail_trace _ _) (by simp [hph]) (State.fail_ph_ne_issue _ _)
  | requestOk _ _ hph | fetchEmpty _ _ hph | fetchData _ _ hph =>
    exact h.append_source (by simp [sourceTrace]) rfl (by simp [hph]) nofun
  | close _ _ hph =>
    cases hheld : s.handleOpen with
    | false => exact h.of_same (by simp) (by simp [hph])
    | true => exact h.append_source (e := .srcClose) (by simp [sourceTrace]) (by simp) (by simp [hph]) nofun

/-- Settles O45, from the cases of a step. -/
theorem stepKeepsReadinessGating : Obligations.StepKeepsReadinessGating := by
  intro s t _ h hstep
  exact (step_next_cases hstep).2.readinessGated h

end Sys2Proof.Machine

/-! SUPPORT. The account of chunks (R115, R116): what a sent frame adds to it, and the step that keeps it. -/

namespace Sys2Proof.Machine

/-! ### What a transaction finds in `tx` (R109) -/

theorem eq_of_readTx {s : State} {fr bytes : List Byte} (htx : s.tx = Memory.ofBytes fr)
    (hl : fr.length = s.cfg.frameSize) (hb : readTx s = .next bytes) : bytes = fr := by
  rw [readTx_ofBytes htx hl] at hb
  exact (Host.Outcome.next.inj hb).symm

theorem RegInv.sends_start {s : State} {bytes : List Byte} (h : RegInv s) (hst : s.st = .await) (hph : s.ph = .issue)
    (hb : readTx s = .next bytes) : bytes = startFrame s.cfg :=
  eq_of_readTx ((h.frame (.inr hph)).1 hst) (length_startFrame h.valid) hb

theorem RegInv.sends_end {s : State} {bytes : List Byte} (h : RegInv s) (hst : s.st = .compl) (hph : s.ph = .issue)
    (hb : readTx s = .next bytes) : bytes = endFrame s.cfg :=
  eq_of_readTx ((h.frame (.inr hph)).2.2 hst).1 (length_endFrame h.valid) hb

/-- The length of a chunk fits in the two length bytes of its frame (R11, R49). -/
theorem length_le_of_chunkOk {c : Config} {b : List Byte} (hv : c.valid = true) (hb : chunkOk c b = true) :
    b.length ≤ 65535 := by
  obtain ⟨-, hcap, -⟩ := (chunkOk_iff c b).mp hb
  obtain ⟨-, -, hmax, -⟩ := (Config.valid_iff c).mp hv
  exact hcap.trans hmax

/-! ### What a frame adds to the payloads sent -/

/-- A frame that is no DATA frame adds no payload. -/
theorem sentChunks_of_ne_dataFrame {c : Config} {fr : List Byte} (hv : c.valid = true) (hne : ∀ b, fr ≠ dataFrame c b)
    (n : Nat) (a : BusAnswer) : sentChunks c [.transact fr n a] = [] := by
  cases a with
  | fault => rfl
  | ok rb =>
    cases hd : decodeFrame c fr with
    | reject => simp [sentChunks, hd]
    | ok i =>
      rcases decodeFrame_eq_ok hv hd with ⟨rfl, -⟩ | ⟨rfl, -⟩ | ⟨b, -, -, hfr⟩
      · exact sentChunks_busOk hd n rb
      · exact sentChunks_busOk hd n rb
      · exact absurd hfr (hne b)

/-- `classify` reads a DATA frame back as its chunk (R72). -/
theorem decodeFrame_dataFrame {c : Config} {b : List Byte} (hv : c.valid = true) (hb : chunkOk c b = true) :
    decodeFrame c (dataFrame c b) = .ok (.frameData b) := by
  obtain ⟨h1, hcap, -⟩ := (chunkOk_iff c b).mp hb
  obtain ⟨-, -, -, hsd, -, hde, -⟩ := (Config.valid_iff c).mp hv
  have hfield := lengthField_dataFrame (c := c) (length_le_of_chunkOk hv hb)
  have hfields : classify c (dataFrame c b) =
      classifyFields c c.opData (lengthField (dataFrame c b)) (b ++ zeros (c.frameSize - 3 - b.length)) := rfl
  have hne : b ≠ [] := List.length_pos_iff.mp h1
  rw [decodeFrame, if_pos (length_dataFrame hb), hfields, hfield]
  simp [classifyFields, hsd.symm, hde, hne, hcap.not_gt, zeros]

/-- A DATA frame that was sent adds its chunk (R115). -/
theorem sentChunks_dataFrame {c : Config} {b : List Byte} (hv : c.valid = true) (hb : chunkOk c b = true) (n : Nat)
    (rb : List Byte) : sentChunks c [.transact (dataFrame c b) n (.ok rb)] = [b] :=
  sentChunks_busOk (decodeFrame_dataFrame hv hb) n rb

/-! ### The pending chunk -/

theorem Pending.eq_nil {s : State} {p : List (List Byte)} (h : Pending s p)
    (hpoint : ¬(s.st = .xfer ∧ (s.ph = .wait ∨ s.ph = .issue))) (herr : s.err ≠ .busFault) : p = [] := by
  rwa [Pending, if_neg hpoint, if_neg herr] at h

theorem pending_nil {s : State} (hpoint : ¬(s.st = .xfer ∧ (s.ph = .wait ∨ s.ph = .issue))) (herr : s.err ≠ .busFault) :
    Pending s [] := by
  rw [Pending, if_neg hpoint, if_neg herr]

theorem pending_chunk {s : State} {b : List Byte} (hst : s.st = .xfer) (hph : s.ph = .wait ∨ s.ph = .issue)
    (hb : chunkOk s.cfg b = true) (htx : s.tx = Memory.ofBytes (dataFrame s.cfg b)) : Pending s [b] := by
  rw [Pending, if_pos ⟨hst, hph⟩]
  exact ⟨b, hb, htx, rfl⟩

theorem Pending.waiting {s : State} {p : List (List Byte)} (h : Pending s p) (hst : s.st = .xfer)
    (hph : s.ph = .wait ∨ s.ph = .issue) :
    ∃ b, chunkOk s.cfg b = true ∧ s.tx = Memory.ofBytes (dataFrame s.cfg b) ∧ p = [b] := by
  rwa [Pending, if_pos ⟨hst, hph⟩] at h

/-- While a DATA frame waits, the pending chunk is the one it carries, and that is sent next (R109). -/
theorem Pending.sends {s : State} {p : List (List Byte)} {bytes : List Byte} (h : Pending s p) (hst : s.st = .xfer)
    (hph : s.ph = .issue) (hb : readTx s = .next bytes) :
    ∃ b, p = [b] ∧ chunkOk s.cfg b = true ∧ bytes = dataFrame s.cfg b := by
  obtain ⟨b, hok, htx, rfl⟩ := h.waiting hst (.inr hph)
  exact ⟨b, rfl, hok, eq_of_readTx htx (length_dataFrame hok) hb⟩

/-- Between two states in which no DATA frame waits or has faulted, no chunk becomes pending. -/
theorem Pending.of_none {s t : State} {p : List (List Byte)} (h : Pending s p)
    (hs : ¬(s.st = .xfer ∧ (s.ph = .wait ∨ s.ph = .issue))) (hserr : s.err ≠ .busFault)
    (ht : ¬(t.st = .xfer ∧ (t.ph = .wait ∨ t.ph = .issue))) (hterr : t.err ≠ .busFault) : Pending t p :=
  h.eq_nil hs hserr ▸ pending_nil ht hterr

/-- Outside `XFER` the pending chunk depends on the cause and the bus trace alone. -/
theorem Pending.of_same {s t : State} {p : List (List Byte)} (h : Pending s p) (hxfer : s.st ≠ .xfer)
    (hst : t.st = s.st) (hcfg : t.cfg = s.cfg) (herr : t.err = s.err) (hbus : busTrace t.trace = busTrace s.trace) :
    Pending t p := by
  rw [Pending, if_neg (by simp [hst, hxfer]), hcfg, herr, hbus]
  rwa [Pending, if_neg (by simp [hxfer])] at h

/-- After a `BusFault` the pending chunk is that of the faulted frame, if it was a DATA frame. -/
theorem pending_busFault {c : Config} {t : State} {p : List (List Byte)} {fr : List Byte} (hcfg : t.cfg = c)
    (hst : t.st = .failed) (herr : t.err = .busFault) (hlast : (busTrace t.trace).getLast? = some (fr, .fault))
    (hp : (p = [] ∧ ∀ b, fr ≠ dataFrame c b) ∨ ∃ b, p = [b] ∧ chunkOk c b = true ∧ fr = dataFrame c b) :
    Pending t p := by
  rw [Pending, if_neg (by simp [hst]), if_pos herr, hlast, hcfg]
  rcases hp with ⟨rfl, hne⟩ | ⟨b, rfl, hb, rfl⟩
  · exact .inl ⟨rfl, fun b _ heq => hne b (by simpa using heq)⟩
  · exact .inr ⟨b, hb, rfl, rfl⟩

/-! ### One event more -/

/-- A counter of `n` things counts `k` more modulo `2^CNT_W` (R96). -/
theorem addW_mod {c : Config} {a n k : Nat} (h : a = n % 2 ^ c.cntW) : addW c a k = (n + k) % 2 ^ c.cntW := by
  rw [h, addW, Nat.mod_add_mod]

/-- What an event has to meet for the account to stay right when it is added: the pending chunks and what it delivers are what
it sends and the chunks then pending, and the counters count it. -/
theorem ChunkBooks.append {s t : State} {e : Event} (h : ChunkBooks s) (hcfg : t.cfg = s.cfg)
    (htrace : t.trace = s.trace ++ [e])
    (hpend : ∀ p, Pending s p → ∃ p', p ++ deliveredChunks [e] = sentChunks s.cfg [e] ++ p' ∧ Pending t p')
    (hread : t.bytesRead = addW s.cfg s.bytesRead (totalLength (deliveredChunks [e])))
    (hsent : t.bytesSent = addW s.cfg s.bytesSent (totalLength (sentChunks s.cfg [e])))
    (hseq : t.seq = addW s.cfg s.seq (sentChunks s.cfg [e]).length) : ChunkBooks t := by
  obtain ⟨⟨p, hp, hpending⟩, hr, hs, hq⟩ := h
  obtain ⟨p', hp', hpending'⟩ := hpend p hpending
  unfold ChunkBooks
  rw [hcfg, htrace, deliveredChunks_append, sentChunks_append, totalLength_append, totalLength_append,
    List.length_append, hread, hsent, hseq]
  exact ⟨⟨p', by rw [hp, List.append_assoc, hp', List.append_assoc], hpending'⟩, addW_mod hr, addW_mod hs, addW_mod hq⟩

/-- An event that delivers and sends nothing leaves the account as it is, if no more and no fewer chunks are pending. -/
theorem ChunkBooks.append_other {s t : State} {e : Event} (h : ChunkBooks s) (hcfg : t.cfg = s.cfg)
    (htrace : t.trace = s.trace ++ [e]) (hdeliv : deliveredChunks [e] = []) (hsends : sentChunks s.cfg [e] = [])
    (hpend : ∀ p, Pending s p → Pending t p) (hread : t.bytesRead = s.bytesRead) (hsent : t.bytesSent = s.bytesSent)
    (hseq : t.seq = s.seq) : ChunkBooks t := by
  obtain ⟨⟨p, hp, hpending⟩, hr, hs, hq⟩ := h
  unfold ChunkBooks
  rw [hcfg, htrace, deliveredChunks_append, sentChunks_append, hdeliv, hsends, List.append_nil, List.append_nil,
    hread, hsent, hseq]
  exact ⟨⟨p, hp, hpend p hpending⟩, hr, hs, hq⟩

/-- An account with the same history and counters is right if the same chunks are pending. -/
theorem ChunkBooks.of_same {s t : State} (h : ChunkBooks s) (hcfg : t.cfg = s.cfg) (htrace : t.trace = s.trace)
    (hpend : ∀ p, Pending s p → Pending t p) (hread : t.bytesRead = s.bytesRead) (hsent : t.bytesSent = s.bytesSent)
    (hseq : t.seq = s.seq) : ChunkBooks t := by
  obtain ⟨⟨p, hp, hpending⟩, hbooks⟩ := h
  unfold ChunkBooks
  rw [hcfg, htrace, hread, hsent, hseq]
  exact ⟨⟨p, hp, hpend p hpending⟩, hbooks⟩

/-- Where nothing was delivered and no counter counts, the account is right. -/
theorem chunkBooks_of_empty {t : State} (hdeliv : deliveredChunks t.trace = []) (hsends : sentChunks t.cfg t.trace = [])
    (hpend : Pending t []) (hread : t.bytesRead = 0) (hsent : t.bytesSent = 0) (hseq : t.seq = 0) : ChunkBooks t := by
  unfold ChunkBooks
  rw [hdeliv, hsends, hread, hsent, hseq]
  exact ⟨⟨[], rfl, hpend⟩, by simp [totalLength]⟩

theorem chunkBooks_boot (c : Config) (e : Env) : ChunkBooks (State.boot c e) :=
  chunkBooks_of_empty rfl rfl (pending_nil nofun nofun) rfl rfl rfl

/-- A DATA frame that was sent takes its chunk from the pending ones (R105). -/
theorem ChunkBooks.append_data {s t : State} {bytes rb : List Byte} {n : Nat} (h : ChunkBooks s) (hi : RegInv s)
    (hst : s.st = .xfer) (hph : s.ph = .issue) (hb : readTx s = .next bytes) (hcfg : t.cfg = s.cfg)
    (htrace : t.trace = s.trace ++ [.transact bytes n (.ok rb)]) (hpend : Pending t [])
    (hread : t.bytesRead = s.bytesRead) (hsent : t.bytesSent = addW s.cfg s.bytesSent (lengthField bytes))
    (hseq : t.seq = addW s.cfg s.seq 1) : ChunkBooks t := by
  obtain ⟨p, -, hpending⟩ := h.1
  obtain ⟨b, -, hok, rfl⟩ := hpending.sends hst hph hb
  have hsends := sentChunks_dataFrame hi.valid hok n rb
  have hmax := length_le_of_chunkOk hi.valid hok
  refine h.append hcfg htrace (fun p hp => ⟨[], ?_, hpend⟩) ?_ ?_ ?_
  · obtain ⟨b', rfl, hok', heq⟩ := hp.sends hst hph hb
    rw [hsends, dataFrame_inj hmax (length_le_of_chunkOk hi.valid hok') heq]
    rfl
  · rw [hread]
    exact (Nat.mod_eq_of_lt hi.counters.2.1).symm
  · rw [hsent, hsends, lengthField_dataFrame hmax]
    simp [totalLength]
  · rw [hseq, hsends]
    rfl

/-! ### The step -/

/-- Every case of a step keeps the account. -/
theorem StepCase.chunkBooks {s t : State} (hc : StepCase s t) (hi : RegInv s) (h : ChunkBooks s) : ChunkBooks t := by
  have hv := hi.valid
  have hopen (hst : s.st = .await ∨ s.st = .xfer ∨ s.st = .compl) : s.err ≠ .busFault := by
    simp [(hi.openSession hst).err]
  cases hc with
  | reset => exact chunkBooks_boot _ _
  | waiting | halted => exact h.of_same rfl rfl (fun _ hp => hp) rfl rfl rfl
  | requestNotFound _ hst =>
    have herr : s.err = .none := congrArg State.err (hi.idle hst)
    refine h.append_other (State.fail_cfg _ _) (State.fail_trace _ _) rfl rfl (fun p hp => ?_)
      (State.fail_bytesRead _ _) (State.fail_bytesSent _ _) (State.fail_seq _ _)
    exact hp.of_none (by simp [hst]) (by simp [herr]) (by simp) (by simp)
  | requestOk _ hst =>
    have htrace : s.trace = [] := congrArg State.trace (hi.idle hst)
    have herr : s.err = .none := congrArg State.err (hi.idle hst)
    exact chunkBooks_of_empty (by simp [htrace]) (by simp [htrace]) (pending_nil nofun (by simp [herr])) rfl rfl rfl
  | poll _ hst hph =>
    refine h.append_other rfl rfl rfl rfl (fun p hp => ?_) rfl rfl rfl
    by_cases hx : s.st = .xfer
    · obtain ⟨b, hok, htx, rfl⟩ := hp.waiting hx (.inl hph)
      exact pending_chunk hx (by cases sampleNow s.takeHost <;> simp) hok htx
    · exact hp.of_same hx rfl rfl rfl (by simp [busTrace_append])
  | busFault _ hst hph bytes hb =>
    refine h.append_other (State.fail_cfg _ _) (State.fail_trace _ _) rfl rfl (fun p hp => ?_)
      (State.fail_bytesRead _ _) (State.fail_bytesSent _ _) (State.fail_seq _ _)
    refine pending_busFault (fr := bytes) (State.fail_cfg _ _) (State.fail_st _ _) (State.fail_err _ _)
      (by simp [busTrace_append]) ?_
    have herr := hopen hst
    rcases hst with hst | hst | hst
    · obtain rfl := hi.sends_start hst hph hb
      exact .inl ⟨hp.eq_nil (by simp [hst]) herr, startFrame_ne_dataFrame hv⟩
    · exact .inr (hp.sends hst hph hb)
    · obtain rfl := hi.sends_end hst hph hb
      exact .inl ⟨hp.eq_nil (by simp [hst]) herr, endFrame_ne_dataFrame hv⟩
  | startAck _ hst hph bytes rb _ hb | startNack _ hst hph bytes rb hb =>
    obtain rfl := hi.sends_start hst hph hb
    refine h.append_other rfl rfl rfl (sentChunks_of_ne_dataFrame hv (startFrame_ne_dataFrame hv) _ _) (fun p hp => ?_)
      rfl rfl rfl
    exact hp.of_none (by simp [hst]) (hopen (.inl hst)) (by simp) (hopen (.inl hst))
  | fetchError _ hst hph =>
    refine h.append_other (State.fail_cfg _ _) (State.fail_trace _ _) rfl rfl (fun p hp => ?_)
      (State.fail_bytesRead _ _) (State.fail_bytesSent _ _) (State.fail_seq _ _)
    exact hp.of_none (by simp [hph]) (hopen (.inr (.inl hst))) (by simp) (by simp)
  | fetchEmpty _ hst hph =>
    refine h.append_other rfl rfl rfl rfl (fun p hp => ?_) (Nat.mod_eq_of_lt hi.counters.2.1) rfl rfl
    exact hp.of_none (by simp [hph]) (hopen (.inr (.inl hst))) (by simp) (hopen (.inr (.inl hst)))
  | fetchData _ hst hph b _ h1 hcap =>
    have hne : b.length ≠ 0 := Nat.one_le_iff_ne_zero.mp h1
    obtain ⟨-, -, hsent, hseq⟩ := hi.counters
    refine h.append rfl rfl (fun p hp => ⟨[b], ?_, pending_chunk rfl (.inl rfl) (chunkOk_of_valid hv h1 hcap) rfl⟩) ?_
      (Nat.mod_eq_of_lt hsent).symm (Nat.mod_eq_of_lt hseq).symm
    · obtain rfl := hp.eq_nil (by simp [hph]) (hopen (.inr (.inl hst)))
      rw [deliveredChunks_chunk, if_neg hne]
      rfl
    · rw [deliveredChunks_chunk, if_neg hne]
      simp [totalLength]
  | dataLast _ hst hph bytes rb hb =>
    exact h.append_data hi hst hph hb rfl rfl (pending_nil nofun (hopen (.inr (.inl hst)))) rfl rfl rfl
  | dataMore _ hst hph bytes rb hb =>
    exact h.append_data hi hst hph hb rfl rfl (pending_nil (by simp) (hopen (.inr (.inl hst)))) rfl rfl rfl
  | endOk _ hst hph bytes rb hb =>
    obtain rfl := hi.sends_end hst hph hb
    refine h.append_other rfl rfl rfl (sentChunks_of_ne_dataFrame hv (endFrame_ne_dataFrame hv) _ _) (fun p hp => ?_)
      rfl rfl rfl
    exact hp.of_none (by simp [hst]) (hopen (.inr (.inr hst))) (by simp) (hopen (.inr (.inr hst)))
  | close _ hst hph =>
    have hxfer : s.st ≠ .xfer := by rcases hst with hst | hst <;> simp [hst]
    cases hheld : s.handleOpen with
    | false => exact h.of_same rfl (by simp) (fun p hp => hp.of_same hxfer rfl rfl rfl (by simp)) rfl rfl rfl
    | true =>
      exact h.append_other (e := .srcClose) rfl (by simp) rfl rfl
        (fun p hp => hp.of_same hxfer rfl rfl rfl (by simp [busTrace_append])) rfl rfl rfl

/-- Settles O47, from the cases of a step. -/
theorem stepKeepsTheChunkAccount : Obligations.StepKeepsTheChunkAccount := by
  intro s t hi h hstep
  exact (step_next_cases hstep).2.chunkBooks hi h

end Sys2Proof.Machine

/-! SUPPORT. Progress (R131): with answers within their contracts every operation goes on at its control point, and so does the
step; what the environment still has to give meets the contracts again. -/

namespace Sys2Proof.Machine

/-! ### The answers (R78, R84) -/

/-- Settles O25: each port by whether its list is empty; a free value meets its contract. -/
theorem environmentAnswersInScriptOrder : Obligations.EnvironmentAnswersInScriptOrder := by
  intro s n
  refine ⟨fun a rest h => ?_, fun a rest h => ?_, fun a rest h => ?_, fun b rest h => ?_, fun b h => ?_,
    fun b b' rest h => ?_, fun h => ?_, fun h => ?_, fun h => ?_⟩
  · simp [openNow, Env.usedOpen, h]
  · simp [readNow, Env.usedRead, h]
  · simp [busNow, Env.usedBus, h]
  · simp [sampleNow, h]
  · simp [Env.usedReady, h]
  · simp [Env.usedReady, h]
  · rw [openNow, h]
    exact drawOpen_meets _ _
  · rw [readNow, h]
    exact drawRead_meets _ _
  · rw [busNow, h]
    exact drawBus_meets _ _

/-! ### An environment within the contracts: what it answers, and what is left of it, port by port -/

section
variable {c : Config} {e : Env}

theorem openNow_meets {s : State} (h : s.env.meets s.cfg) : (openNow s).meets s.cfg = true := by
  unfold openNow
  split
  · exact drawOpen_meets _ _
  · next heq => exact h.1 _ (by simp [heq])

theorem readNow_meets {s : State} (h : s.env.meets s.cfg) : (readNow s.cfg.chunkCap s).meets s.cfg.chunkCap = true := by
  unfold readNow
  split
  · exact drawRead_meets _ _
  · next heq => exact h.2.1 _ (by simp [heq])

theorem busNow_meets {s : State} (h : s.env.meets s.cfg) : (busNow s).meets s.cfg = true := by
  unfold busNow
  split
  · exact drawBus_meets _ _
  · next heq => exact h.2.2 _ (by simp [heq])

/-- Fewer scripted answers are within the contracts too. -/
theorem Env.meets.of_subset {e' : Env} (h : e.meets c) (ho : e'.opens ⊆ e.opens) (hr : e'.reads ⊆ e.reads)
    (hb : e'.bus ⊆ e.bus) : e'.meets c :=
  ⟨fun a ha => h.1 a (ho ha), fun a ha => h.2.1 a (hr ha), fun a ha => h.2.2 a (hb ha)⟩

theorem Env.meets.usedOpen (h : e.meets c) : e.usedOpen.meets c := by
  unfold Env.usedOpen
  split
  · exact h
  · next heq => exact h.of_subset (by simp [heq]) (List.Subset.refl _) (List.Subset.refl _)

theorem Env.meets.usedRead (h : e.meets c) : e.usedRead.meets c := by
  unfold Env.usedRead
  split
  · exact h
  · next heq => exact h.of_subset (List.Subset.refl _) (by simp [heq]) (List.Subset.refl _)

theorem Env.meets.usedBus (h : e.meets c) : e.usedBus.meets c := by
  unfold Env.usedBus
  split
  · exact h
  · next heq => exact h.of_subset (List.Subset.refl _) (List.Subset.refl _) (by simp [heq])

theorem Env.meets.usedReady (h : e.meets c) : e.usedReady.meets c := by
  unfold Env.usedReady
  split <;> exact h

end

/-- Every case of a step leaves an environment within the contracts. -/
theorem StepCase.env_meets {s t : State} (hc : StepCase s t) (h : s.env.meets s.cfg) : t.env.meets t.cfg := by
  have hhost : s.takeHost.env.meets s.cfg := h
  cases hc with
  | reset | waiting | halted | close => exact hhost
  | requestNotFound =>
    rw [State.fail_env, State.fail_cfg]
    exact hhost.usedOpen
  | requestOk => exact hhost.usedOpen
  | poll => exact hhost.usedReady
  | busFault =>
    rw [State.fail_env, State.fail_cfg]
    exact hhost.usedBus
  | startAck | startNack | dataLast | dataMore | endOk => exact hhost.usedBus
  | fetchError =>
    rw [State.fail_env, State.fail_cfg]
    exact hhost.usedRead
  | fetchEmpty | fetchData => exact hhost.usedRead

/-! ### The operations go on -/

/-- A chain goes on if its first operation does and what follows goes on from each of its answers. -/
theorem andThen_goesOn {α β : Type} {o : Host.Outcome α Fault Refusal} {f : α → Host.Outcome β Fault Refusal} {a : α}
    (ho : o = .next a) (hf : ∃ b, f a = .next b) : ∃ b, andThen o f = .next b := by
  rw [ho]
  exact hf

section
variable {s : State}

/-- A transaction on a whole frame goes on (R43, R131). -/
theorem transact_goesOn {bytes : List Byte} (hb : readTx s = .next bytes) (h : s.env.meets s.cfg) :
    transact s = .next (bytes, busNow s, afterTransact s bytes) :=
  transact_eq_next.mpr ⟨bytes, hb, busNow_meets h, rfl⟩

theorem transactStart_goesOn {bytes : List Byte} (hv : s.cfg.valid = true) (hb : readTx s = .next bytes)
    (h : s.env.meets s.cfg) : ∃ t, transactStart s = .next t := by
  refine andThen_goesOn (transact_goesOn hb h) ?_
  have hm := busNow_meets h
  cases hn : busNow s with
  | fault => exact ⟨_, rfl⟩
  | ok rb =>
    have hl : s.cfg.ackIndex < rb.length := by
      have hlen : rb.length = s.cfg.frameSize := by simpa [hn, BusAnswer.meets] using hm
      rw [hlen]
      exact ((Config.valid_iff _).mp hv).2.2.2.2.2.2
    refine andThen_goesOn (readRx_ofBytes (afterTransact_ok hn ▸ rfl) (List.getElem?_eq_getElem hl)) ?_
    split <;> exact ⟨_, rfl⟩

theorem transactData_goesOn {bytes : List Byte} (hb : readTx s = .next bytes) (h : s.env.meets s.cfg) :
    ∃ t, transactData s = .next t := by
  refine andThen_goesOn (transact_goesOn hb h) ?_
  cases busNow s with
  | fault => exact ⟨_, rfl⟩
  | ok rb => cases s.last <;> exact ⟨_, rfl⟩

theorem transactEnd_goesOn {bytes : List Byte} (hb : readTx s = .next bytes) (h : s.env.meets s.cfg) :
    ∃ t, transactEnd s = .next t := by
  refine andThen_goesOn (transact_goesOn hb h) ?_
  cases busNow s with
  | fault | ok rb => exact ⟨_, rfl⟩

theorem execOpRequest_goesOn (h : s.env.meets s.cfg) : ∃ t, execOpRequest s = .next t := by
  unfold execOpRequest
  split
  · have hm := openNow_meets h
    cases ho : openNow s with
    | notFound => exact andThen_goesOn (opOpen_eq_next.mpr (.inl ⟨ho, rfl⟩)) ⟨_, rfl⟩
    | ok size =>
      have hs : size < 2 ^ s.cfg.cntW := by simpa [ho, OpenAnswer.meets] using hm
      exact andThen_goesOn (opOpen_eq_next.mpr (.inr ⟨size, ho, hs, rfl⟩)) ⟨_, rfl⟩
  · exact ⟨_, rfl⟩

theorem execOpFetch_goesOn (hst : s.st = .xfer) (hph : s.ph = .fetch) (h : s.env.meets s.cfg) :
    ∃ t, execOpFetch s = .next t := by
  have hm := readNow_meets h
  unfold execOpFetch
  rw [if_pos ((State.isAt_iff ..).mpr ⟨hst, hph⟩)]
  cases hr : readNow s.cfg.chunkCap s with
  | readError => exact andThen_goesOn (opRead_eq_next.mpr (.inl ⟨hr, rfl⟩)) ⟨_, rfl⟩
  | chunk count b =>
    obtain ⟨hc, hb⟩ : count ≤ s.cfg.chunkCap ∧ b.length = count := by simpa [hr, ReadAnswer.meets] using hm
    refine andThen_goesOn (opRead_eq_next.mpr (.inr ⟨count, b, hr, hc, hb, rfl⟩)) ?_
    by_cases h0 : count = 0
    · simp only [if_pos h0]
      exact ⟨_, rfl⟩
    · simp only [if_neg h0]
      exact ⟨_, rfl⟩

end

/-- From every state of the invariant the operation its control point selects goes on (R27, R131). -/
theorem exec_goesOn {s : State} {i : Instr} (h : RegInv s) (hm : s.env.meets s.cfg)
    (hd : decodePoint s.st s.ph = .ok i) : ∃ t, exec i s = .next t := by
  have hframe := fun hph => h.frame (.inr hph)
  rcases decodePoint_eq_ok hd with ⟨-, -, rfl⟩ | ⟨hst, hph, rfl⟩ | ⟨hst, hph, rfl⟩ | ⟨hst, hph, rfl⟩ |
    ⟨hst, hph, rfl⟩ | ⟨hst, hph, rfl⟩ | ⟨hst, hph, rfl⟩
  · exact execOpRequest_goesOn hm
  · exact ⟨_, if_pos (by simp [Instr.wellFormed, hst, hph])⟩
  · rw [exec_opXactStart_of_isAt hph hst]
    have htx := (hframe hph).1 hst
    exact transactStart_goesOn h.valid (readTx_ofBytes htx (length_startFrame h.valid)) hm
  · exact execOpFetch_goesOn hst hph hm
  · rw [exec_opXactData_of_isAt hph hst]
    obtain ⟨b, hok, htx, -⟩ := (hframe hph).2.1 hst
    exact transactData_goesOn (readTx_ofBytes htx (length_dataFrame hok)) hm
  · rw [exec_opXactEnd_of_isAt hph hst]
    obtain ⟨htx, -⟩ := (hframe hph).2.2 hst
    exact transactEnd_goesOn (readTx_ofBytes htx (length_endFrame h.valid)) hm
  · exact ⟨_, if_pos (by simp [Instr.wellFormed, hst, hph])⟩

/-- A step from a state of the invariant goes on: reset, a block that halts or waits, or the selected operation. -/
theorem RegInv.step_goesOn {s : State} (h : RegInv s) (hm : s.env.meets s.cfg) : ∃ t, step s = .next t := by
  cases hr : (hostNow s).reset with
  | true => exact ⟨_, step_of_reset h.valid hr⟩
  | false =>
    rcases decodePoint_of_reachable h.point with ⟨i, hd⟩ | hd
    · by_cases hq : i = .opRequest ∧ (hostNow s).request = false
      · obtain ⟨rfl, hq⟩ := hq
        exact ⟨_, step_of_waiting h.valid hr hd hq⟩
      · rw [step_eq_exec h.valid hr hd fun hi => by simpa [hi] using hq]
        exact exec_goesOn (h.withEnv s.takeHost.env) hm hd
    · exact ⟨_, step_of_noStep h.valid hr hd⟩

/-- Settles O49: the step goes on, and its cases say what it leaves of the environment. -/
theorem stepGoesOnUnderTheContract : Obligations.StepGoesOnUnderTheContract := by
  intro s h hm
  obtain ⟨t, ht⟩ := h.step_goesOn hm
  exact ⟨t, ht, (step_next_cases ht).2.env_meets hm⟩

end Sys2Proof.Machine

/-! SUPPORT. The read-out the host sees, bit by bit (R38). -/

namespace Sys2Proof.Machine

/-- A field of `w` bits placed at bit `k` of a 32-bit word. -/
theorem getLsbD_field {w : Nat} (v : BitVec w) {k : Nat} (hk : k + w ≤ 32) (i : Nat) :
    (v.zeroExtend 32 <<< k).getLsbD i = (decide (k ≤ i) && v.getLsbD (i - k)) := by
  have hout (hi : 32 ≤ i) : v.getLsbD (i - k) = false := BitVec.getLsbD_of_ge v _ (by omega)
  simp only [BitVec.getLsbD_shiftLeft, BitVec.truncate_eq_setWidth, BitVec.getLsbD_setWidth]
  by_cases hi : i < 32
  · have : i - k < 32 := by omega
    have hk : (!decide (i < k)) = decide (k ≤ i) := by simp [← decide_not]
    simp [hi, this, hk]
  · simp [hi, hout (by omega)]

theorem getLsbD_flag (b : Bool) {k : Nat} (hk : k < 32) (i : Nat) :
    (flagWord b <<< k).getLsbD i = (decide (i = k) && b) := by
  rw [flagWord, getLsbD_field _ hk]
  by_cases hi : i = k
  · simp [hi]
  · by_cases hle : k ≤ i
    · simp [hi, show i - k ≠ 0 by omega]
    · simp [hi, hle]

/-- Every bit of `STATUS`, field by field (R38). -/
theorem State.getLsbD_status (s : State) (i : Nat) : s.status.getLsbD i =
    (decide (i = 10) && s.mismatch || decide (i = 9) && s.handleOpen || decide (i = 8) && s.last ||
      decide (6 ≤ i) && s.err.code.getLsbD (i - 6) || decide (3 ≤ i) && s.ph.code.getLsbD (i - 3) ||
      s.st.code.getLsbD i) := by
  have hst := getLsbD_field s.st.code (k := 0) (by decide) i
  simp only [BitVec.shiftLeft_zero] at hst
  simp only [State.status, BitVec.getLsbD_or, getLsbD_flag _ (show 10 < 32 by decide),
    getLsbD_flag _ (show 9 < 32 by decide), getLsbD_flag _ (show 8 < 32 by decide),
    getLsbD_field _ (show 6 + 2 ≤ 32 by decide), getLsbD_field _ (show 3 + 3 ≤ 32 by decide), hst]
  simp

/-- Settles O8: the codes are the tables'; each field of `STATUS` is read bit by bit. -/
theorem statusHasTheLayoutOfItsFields : Obligations.StatusHasTheLayoutOfItsFields := by
  refine ⟨by decide, by decide, by decide, fun s => ⟨?_, ?_, ?_, ?_, ?_, ?_, ?_⟩⟩
  · refine BitVec.eq_of_getLsbD_eq fun i hi => ?_
    have hlow : i ≠ 10 ∧ i ≠ 9 ∧ i ≠ 8 ∧ ¬6 ≤ i ∧ ¬3 ≤ i := by omega
    rw [BitVec.getLsbD_extractLsb', s.getLsbD_status]
    simp [hlow, hi]
  · refine BitVec.eq_of_getLsbD_eq fun i hi => ?_
    have hlow : 3 + i ≠ 10 ∧ 3 + i ≠ 9 ∧ 3 + i ≠ 8 ∧ ¬6 ≤ 3 + i := by omega
    rw [BitVec.getLsbD_extractLsb', s.getLsbD_status]
    simp [hlow, hi]
  · refine BitVec.eq_of_getLsbD_eq fun i hi => ?_
    have hlow : 6 + i ≠ 10 ∧ 6 + i ≠ 9 ∧ 6 + i ≠ 8 := by omega
    have hph : s.ph.code.getLsbD (6 + i - 3) = false := BitVec.getLsbD_of_ge _ _ (by omega)
    have hst : s.st.code.getLsbD (6 + i) = false := BitVec.getLsbD_of_ge _ _ (by omega)
    rw [BitVec.getLsbD_extractLsb', s.getLsbD_status]
    simp [hlow, hi, hph, hst]
  · rw [s.getLsbD_status]
    simp
  · rw [s.getLsbD_status]
    simp
  · rw [s.getLsbD_status]
    simp
  · refine BitVec.eq_of_getLsbD_eq fun i hi => ?_
    have hlow : 11 + i ≠ 10 ∧ 11 + i ≠ 9 ∧ 11 + i ≠ 8 := by omega
    have herr : s.err.code.getLsbD (11 + i - 6) = false := BitVec.getLsbD_of_ge _ _ (by omega)
    have hph : s.ph.code.getLsbD (11 + i - 3) = false := BitVec.getLsbD_of_ge _ _ (by omega)
    have hst : s.st.code.getLsbD (11 + i) = false := BitVec.getLsbD_of_ge _ _ (by omega)
    rw [BitVec.getLsbD_extractLsb', s.getLsbD_status]
    simp [hlow, herr, hph, hst]

end Sys2Proof.Machine

/-! SUPPORT. Reads of buffers with unwritten bytes (R43): a whole-buffer read answers exactly what its bytes read as. -/

namespace Sys2Proof.Machine

/-! ### Whole-buffer reads -/

/-- Whatever a whole read answers, each byte reads so alone. -/
theorem Memory.read_of_run {m : Memory} {a n i : Nat} {bytes : List Byte} (h : Memory.run m a n = some bytes)
    (hi : i < n) : Memory.read m (a + i) = bytes[i]? := by
  induction m generalizing a n i bytes with
  | nil =>
    obtain ⟨n, rfl⟩ := Nat.exists_eq_add_one_of_ne_zero (Nat.ne_zero_of_lt hi)
    simp [Memory.run] at h
  | cons x rest ih =>
    obtain ⟨k, b⟩ := x
    obtain ⟨n, rfl⟩ := Nat.exists_eq_add_one_of_ne_zero (Nat.ne_zero_of_lt hi)
    unfold Memory.run at h
    split at h
    next hk =>
      obtain ⟨l, hl, rfl⟩ := Option.map_eq_some_iff.mp h
      cases i with
      | zero => simp [Memory.read, hk]
      | succ i =>
        have hne : k ≠ a + (i + 1) := by omega
        rw [Memory.read, if_neg hne, List.getElem?_cons_succ, ← ih hl (by omega)]
        congr 1
        omega
    next =>
      split at h
      next hk =>
        have hne : k ≠ a + i := by omega
        rw [Memory.read, if_neg hne, ih h hi]
      next => cases h

/-- Below its first offset a canonical buffer is unwritten. -/
theorem Memory.read_of_lt {m : Memory} {k a : Nat} (h : ∀ x ∈ m, k < x.1) (ha : a ≤ k) : Memory.read m a = none := by
  induction m with
  | nil => rfl
  | cons x rest ih =>
    obtain ⟨hx, hrest⟩ := List.forall_mem_cons.mp h
    rw [Memory.read, if_neg (by omega), ih hrest]

/-- In a canonical buffer bytes that each read alone are read whole. -/
theorem Memory.run_of_read {m : Memory} {a : Nat} {bytes : List Byte} (hw : Memory.wf m = true)
    (h : ∀ i, i < bytes.length → Memory.read m (a + i) = bytes[i]?) : Memory.run m a bytes.length = some bytes := by
  induction m generalizing a bytes with
  | nil =>
    cases bytes with
    | nil => rfl
    | cons b bytes => simpa [Memory.read] using h 0 (by simp)
  | cons x rest ih =>
    obtain ⟨k, v⟩ := x
    obtain ⟨hk, hrest⟩ := Memory.wf_cons.mp hw
    cases bytes with
    | nil => rfl
    | cons b bytes =>
      have hfirst : Memory.read ((k, v) :: rest) a = some b := by simpa using h 0 (by simp)
      rw [List.length_cons, Memory.run]
      rcases lt_trichotomy k a with hlt | rfl | hgt
      · rw [if_neg hlt.ne, if_pos hlt]
        refine ih (bytes := b :: bytes) hrest fun i hi => ?_
        rw [← h i hi, Memory.read, if_neg (by omega)]
      · obtain rfl : v = b := by simpa [Memory.read] using hfirst
        rw [if_pos rfl, ih hrest fun i hi => ?_]
        · rfl
        · have hnext := h (i + 1) (by simpa using hi)
          rw [Memory.read, if_neg (by omega)] at hnext
          rw [Nat.add_assoc, Nat.add_comm 1 i, hnext, List.getElem?_cons_succ]
      · rw [Memory.read, if_neg hgt.ne', Memory.read_of_lt hk hgt.le] at hfirst
        cases hfirst

theorem readTx_of_unwritten {s : State} {a : Nat} (ha : a < s.cfg.frameSize) (h : Memory.read s.tx a = none) :
    readTx s = .fault (.unwritten .tx) := by
  unfold readTx
  split
  next bytes hrun =>
    have hread := Memory.read_of_run hrun ha
    have hl := Memory.length_run hrun
    simp [h, hl, ha] at hread
  next => rfl

/-! ### A fault stops the transaction -/

section
variable {s : State} {r : Fault} (h : readTx s = .fault r)
include h

theorem transact_of_fault : transact s = .fault r := by
  rw [transact, h]
  rfl

theorem transactStart_of_fault : transactStart s = .fault r := by
  rw [transactStart, transact_of_fault h]
  rfl

theorem transactData_of_fault : transactData s = .fault r := by
  rw [transactData, transact_of_fault h]
  rfl

theorem transactEnd_of_fault : transactEnd s = .fault r := by
  rw [transactEnd, transact_of_fault h]
  rfl

end

/-- Settles O36: an unwritten byte stops the whole read, and with it the transaction. -/
theorem readingAnUnwrittenByteFaults : Obligations.ReadingAnUnwrittenByteFaults := by
  intro s hw
  refine ⟨fun a ha hnone hph => ?_, fun bytes hl hread => ?_, fun i hnone => ?_, fun i b hb => readRx_eq_next.mpr hb⟩
  · have hfault := readTx_of_unwritten ha hnone
    exact ⟨fun hst => (exec_opXactStart_of_isAt hph hst).trans (transactStart_of_fault hfault),
      fun hst => (exec_opXactData_of_isAt hph hst).trans (transactData_of_fault hfault),
      fun hst => (exec_opXactEnd_of_isAt hph hst).trans (transactEnd_of_fault hfault)⟩
  · rw [readTx_eq_next, ← hl]
    exact Memory.run_of_read hw fun i hi => by simpa using hread i (hl ▸ hi)
  · rw [readRx, hnone]

end Sys2Proof.Machine

/-! SUPPORT. Write ownership (R44): which elements each operation writes, composed along the pseudocode. -/

namespace Sys2Proof.Machine

/-- Between two states only the listed elements were written; the parameters and the host's events stand. -/
def WritesOnly (l : List Element) (s t : State) : Prop :=
  (∀ e, e ∉ l → e.Same s t) ∧ t.cfg = s.cfg ∧ t.env.host = s.env.host

theorem Element.Same.trans {e : Element} {s u t : State} (h : e.Same s u) (h' : e.Same u t) : e.Same s t := by
  cases e with
  | tx | rx => exact fun a => Eq.trans (h' a) (h a)
  | st | ph | err | totalSize | bytesRead | bytesSent | seq | last | handleOpen | mismatch => exact Eq.trans h' h

theorem WritesOnly.trans {l l' : List Element} {s u t : State} (h : WritesOnly l s u) (h' : WritesOnly l' u t) :
    WritesOnly (l ++ l') s t := by
  obtain ⟨hsame, hcfg, hhost⟩ := h
  obtain ⟨hsame', hcfg', hhost'⟩ := h'
  refine ⟨fun e he => ?_, hcfg'.trans hcfg, hhost'.trans hhost⟩
  obtain ⟨hl, hl'⟩ := not_or.mp (mt List.mem_append.mpr he)
  exact (hsame e hl).trans (hsame' e hl')

theorem WritesOnly.mono {l l' : List Element} {s t : State} (h : WritesOnly l s t) (hl : l ⊆ l') : WritesOnly l' s t :=
  ⟨fun e he => h.1 e (mt (@hl e) he), h.2⟩

/-! ### The host's events stand -/

@[simp] theorem Env.drawn_host (e : Env) : e.drawn.host = e.host := rfl

@[simp] theorem Env.usedOpen_host (e : Env) : e.usedOpen.host = e.host := by
  unfold Env.usedOpen
  split <;> rfl

@[simp] theorem Env.usedRead_host (e : Env) : e.usedRead.host = e.host := by
  unfold Env.usedRead
  split <;> rfl

@[simp] theorem Env.usedReady_host (e : Env) : e.usedReady.host = e.host := by
  unfold Env.usedReady
  split <;> rfl

@[simp] theorem Env.usedBus_host (e : Env) : e.usedBus.host = e.host := by
  unfold Env.usedBus
  split <;> rfl

/-! ### The shared operations -/

section
variable (s : State)

theorem writesOnly_goto (st : Session) (ph : Phase) : WritesOnly [.st, .ph] s (s.goto st ph) := by
  refine ⟨fun e he => ?_, rfl, rfl⟩
  cases e <;> simp_all [Element.Same]

theorem writesOnly_fail (code : ErrCode) : WritesOnly [.st, .ph, .err] s (s.fail code) := by
  refine ⟨fun e he => ?_, by simp, by simp⟩
  cases e <;> simp_all [Element.Same]

theorem writesOnly_storeTx (bytes : List Byte) : WritesOnly [.tx] s (s.storeTx bytes) := by
  refine ⟨fun e he => ?_, rfl, rfl⟩
  cases e <;> simp_all [Element.Same]

theorem writesOnly_countSent (n : Nat) : WritesOnly [.bytesSent, .seq] s (s.countSent n) := by
  refine ⟨fun e he => ?_, rfl, rfl⟩
  cases e <;> simp_all [Element.Same]

theorem writesOnly_afterTransact (bytes : List Byte) : WritesOnly [.rx] s (afterTransact s bytes) := by
  have hhost : (afterTransact s bytes).env.host = s.env.host := by
    cases hn : busNow s with
    | fault => simp [afterTransact_fault hn]
    | ok rb => simp [afterTransact_ok hn]
  rw [afterTransact_eq]
  refine ⟨fun e he => ?_, rfl, hhost⟩
  cases e <;> simp_all [Element.Same]

end

/-! ### The transactions -/

theorem transactStart_writesOnly {s t : State} (h : transactStart s = .next t) :
    WritesOnly [.st, .ph, .err, .tx, .rx] s t := by
  obtain ⟨bytes, -, ⟨-, rfl⟩ | ⟨rb, ack, -, -, -, ⟨-, rfl⟩ | ⟨-, rfl⟩⟩⟩ := transactStart_next h
  · exact ((writesOnly_afterTransact s bytes).trans (writesOnly_fail _ _)).mono (by simp)
  · exact ((writesOnly_afterTransact s bytes).trans (writesOnly_goto _ _ _)).mono (by simp)
  · exact (((writesOnly_afterTransact s bytes).trans (writesOnly_storeTx _ _)).trans (writesOnly_goto _ _ _)).mono (by simp)

theorem transactData_writesOnly {s t : State} (h : transactData s = .next t) :
    WritesOnly [.st, .ph, .err, .tx, .rx, .bytesSent, .seq] s t := by
  obtain ⟨bytes, -, ⟨-, rfl⟩ | ⟨rb, -, -, ⟨-, rfl⟩ | ⟨-, rfl⟩⟩⟩ := transactData_next h
  · exact ((writesOnly_afterTransact s bytes).trans (writesOnly_fail _ _)).mono (by simp)
  · have hsent := (writesOnly_afterTransact s bytes).trans (writesOnly_countSent _ (lengthField bytes))
    exact ((hsent.trans (writesOnly_storeTx _ _)).trans (writesOnly_goto _ _ _)).mono (by simp)
  · have hsent := (writesOnly_afterTransact s bytes).trans (writesOnly_countSent _ (lengthField bytes))
    exact (hsent.trans (writesOnly_goto _ _ _)).mono (by simp)

theorem transactEnd_writesOnly {s t : State} (h : transactEnd s = .next t) : WritesOnly [.st, .ph, .err, .rx] s t := by
  obtain ⟨bytes, -, ⟨-, rfl⟩ | ⟨rb, -, -, rfl⟩⟩ := transactEnd_next h
  · exact ((writesOnly_afterTransact s bytes).trans (writesOnly_fail _ _)).mono (by simp)
  · exact ((writesOnly_afterTransact s bytes).trans (writesOnly_goto _ _ _)).mono (by simp)

/-! ### The other operations -/

/-- What an operation leaves of the environment and adds to the history is no element of R44. -/
theorem writesOnly_observed (s : State) {e : Env} (tr : List Event) (hhost : e.host = s.env.host) :
    WritesOnly [] s { s with env := e, trace := tr } := by
  refine ⟨fun x _ => ?_, rfl, hhost⟩
  cases x <;> simp [Element.Same]

theorem execOpRequest_writesOnly {s t : State} (h : exec .opRequest s = .next t) : WritesOnly (mayWrite .opRequest) s t := by
  rcases execOpRequest_next h with ⟨-, rfl⟩ | ⟨-, -, ⟨-, rfl⟩ | ⟨size, -, -, rfl⟩⟩
  · exact (writesOnly_observed t t.trace rfl).mono (by simp)
  · exact ((writesOnly_observed s _ (Env.usedOpen_host _)).trans (writesOnly_fail _ _)).mono (by simp [mayWrite])
  · refine ⟨fun e he => ?_, rfl, by simp⟩
    cases e <;> simp_all [Element.Same, mayWrite]

theorem execOpFetch_writesOnly {s t : State} (h : exec .opFetch s = .next t) : WritesOnly (mayWrite .opFetch) s t := by
  obtain ⟨-, -, ⟨-, rfl⟩ | ⟨b, -, -, rfl⟩ | ⟨b, -, -, -, rfl⟩⟩ := execOpFetch_next h
  · exact ((writesOnly_observed s _ (Env.usedRead_host _)).trans (writesOnly_fail _ _)).mono (by simp [mayWrite])
  · refine ⟨fun e he => ?_, rfl, by simp⟩
    cases e <;> simp_all [Element.Same, mayWrite]
  · refine ⟨fun e he => ?_, rfl, by simp⟩
    cases e <;> simp_all [Element.Same, mayWrite]

theorem execOpPoll_writesOnly {st : Session} {s t : State} (h : exec (.opPoll st) s = .next t) :
    WritesOnly (mayWrite (.opPoll st)) s t := by
  obtain ⟨-, -, -, rfl⟩ := execOpPoll_next h
  refine ⟨fun e he => ?_, rfl, by simp⟩
  cases e <;> simp_all [Element.Same, mayWrite]

theorem execOpClose_writesOnly {st : Session} {s t : State} (h : exec (.opClose st) s = .next t) :
    WritesOnly (mayWrite (.opClose st)) s t := by
  obtain ⟨-, -, -, rfl⟩ := execOpClose_next h
  refine ⟨fun e he => ?_, rfl, rfl⟩
  cases e <;> simp_all [Element.Same, mayWrite]

theorem execOpOpen_writesOnly {s t : State} (h : exec .opOpen s = .next t) : WritesOnly (mayWrite .opOpen) s t := by
  rcases execOpOpen_next h with ⟨-, rfl⟩ | ⟨size, -, -, rfl⟩
  · exact (writesOnly_observed s _ (Env.usedOpen_host _)).mono (by simp)
  · refine ⟨fun e he => ?_, rfl, by simp⟩
    cases e <;> simp_all [Element.Same, mayWrite]

theorem execOpRead_writesOnly {n : Nat} {s t : State} (h : exec (.opRead n) s = .next t) :
    WritesOnly (mayWrite (.opRead n)) s t := by
  rcases execOpRead_next h with ⟨-, rfl⟩ | ⟨count, b, -, -, -, rfl⟩
  · exact (writesOnly_observed s _ (Env.usedRead_host _)).mono (by simp)
  · refine ⟨fun e he => ?_, rfl, by simp⟩
    cases e <;> simp_all [Element.Same, mayWrite]

/-- Every instruction writes the elements R44 gives it, and no other. -/
theorem exec_writesOnly {i : Instr} {s t : State} (h : exec i s = .next t) : WritesOnly (mayWrite i) s t := by
  cases i with
  | frameStart =>
    obtain ⟨-, -, h⟩ := execFrameStart_next h
    exact ((writesOnly_storeTx s _).trans (transactStart_writesOnly h)).mono (by simp [mayWrite])
  | frameData b =>
    obtain ⟨-, -, -, h⟩ := execFrameData_next h
    exact ((writesOnly_storeTx s _).trans (transactData_writesOnly h)).mono (by simp [mayWrite])
  | frameEnd =>
    obtain ⟨-, -, h⟩ := execFrameEnd_next h
    exact ((writesOnly_storeTx s _).trans (transactEnd_writesOnly h)).mono (by simp [mayWrite])
  | opRequest => exact execOpRequest_writesOnly h
  | opPoll => exact execOpPoll_writesOnly h
  | opXactStart => exact transactStart_writesOnly (execOpXactStart_next h).2.2
  | opFetch => exact execOpFetch_writesOnly h
  | opXactData => exact transactData_writesOnly (execOpXactData_next h).2.2
  | opXactEnd => exact transactEnd_writesOnly (execOpXactEnd_next h).2.2
  | opClose => exact execOpClose_writesOnly h
  | opOpen => exact execOpOpen_writesOnly h
  | opRead => exact execOpRead_writesOnly h
  | opSrcClose =>
    cases h
    exact writesOnly_observed s _ rfl
  | opBuildStart | opBuildEnd =>
    cases h
    exact writesOnly_storeTx s _
  | opBuildData b =>
    obtain ⟨-, rfl⟩ := execOpBuildData_next h
    exact writesOnly_storeTx s _

/-- Settles O37, instruction by instruction. -/
theorem onlyTheListedOperationsWriteAnElement : Obligations.OnlyTheListedOperationsWriteAnElement := by
  intro i s t h
  exact exec_writesOnly h

end Sys2Proof.Machine

/-! SUPPORT. Runs end with the source closed (R36, R156), and the facts of fixed words, of the reset state and of calls away from
their control point. -/

namespace Sys2Proof.Machine

/-- At `HALT` no handle is held (R36). -/
theorem RegInv.handleOpen_of_halt {s : State} (h : RegInv s) (hph : s.ph = .halt) : s.handleOpen = false := by
  have hst : s.st = .idle ∨ s.st = .completed ∨ s.st = .failed := by simpa [hph, reachablePoints] using h.point
  have hheld := h.handle
  rcases hst with hst | hst | hst <;> simpa [hst, hph] using hheld

/-- Settles O54: the registers' and the source's invariants, along the run. -/
theorem sourceIsClosedExactlyOncePerOpen : Obligations.SourceIsClosedExactlyOncePerOpen := by
  intro c e k t hreach hph
  obtain ⟨hi, hbooks⟩ : RegInv t ∧ SourceBooks t :=
    hreach.of_invariant (P := fun s => RegInv s ∧ SourceBooks s) (fun c e hv => ⟨regInv_boot e hv, sourceBooks_boot c e⟩)
      fun s u hs hu => ⟨stepKeepsTheRegisterInvariant s u hs.1 hu, stepKeepsTheUseOfTheSource s u hs.1 hs.2 hu⟩
  obtain ⟨-, -, -, hbalance, honce⟩ := hbooks
  rw [hi.handleOpen_of_halt hph] at hbalance
  exact ⟨hbalance.symm, honce⟩

/-- Settles O43: at reset the history is empty and every register has its reset value. -/
theorem invariantsHoldAfterReset : Obligations.InvariantsHoldAfterReset := by
  intro c e hv
  exact ⟨regInv_boot e hv, readinessGated_boot c e, rfl, chunkBooks_boot c e, sourceBooks_boot c e⟩

/-- Settles O1: the decoder evaluated on the fixed words. -/
theorem specWordsDecodeToTheirInstructions : Obligations.SpecWordsDecodeToTheirInstructions := by
  unfold Obligations.SpecWordsDecodeToTheirInstructions
  decide

/-- Settles O7: the fields of the one state after reset. -/
theorem resetStateHasTheSpecsValues : Obligations.ResetStateHasTheSpecsValues := by
  unfold Obligations.ResetStateHasTheSpecsValues
  decide

/-- The guard of an operation away from its control point. -/
theorem not_isAt {s : State} {st : Session} {ph : Phase} (h : ¬(s.st = st ∧ s.ph = ph)) : ¬s.isAt st ph = true :=
  mt (State.isAt_iff ..).mp h

/-- Settles O33: the guard of each operation fails. -/
theorem operationsAwayFromTheirPointAreRefused : Obligations.OperationsAwayFromTheirPointAreRefused := by
  intro s
  refine ⟨fun h => if_neg (not_isAt h), fun st h => if_neg (by simpa [Instr.wellFormed] using h),
    fun st h => if_neg (by simpa [Instr.wellFormed] using h), fun h => if_neg (not_isAt h),
    fun h => ⟨if_neg (not_isAt h), if_neg (not_isAt h)⟩, fun h => ⟨if_neg (not_isAt h), fun b => if_neg (not_isAt h)⟩,
    fun h => ⟨if_neg (not_isAt h), if_neg (not_isAt h)⟩, fun b hb => ⟨if_neg (by simp [hb]), fun hst hph => ?_⟩⟩
  exact (if_pos ((State.isAt_iff ..).mpr ⟨hst, hph⟩)).trans (if_neg (by simp [hb]))

end Sys2Proof.Machine

/-! SUPPORT. The header of a frame, byte by byte and as one word (R49, R71). -/

namespace Sys2Proof

/-! ### The length bytes are the two halves of a 16-bit length (R49) -/

theorem lengthHigh_eq_extractLsb' (n : Nat) : lengthHigh n = (BitVec.ofNat 16 n).extractLsb' 8 8 := by
  apply BitVec.eq_of_toNat_eq
  simp only [lengthHigh, BitVec.extractLsb'_toNat, BitVec.toNat_ofNat, Nat.shiftRight_eq_div_pow]
  omega

theorem lengthLow_eq_extractLsb' (n : Nat) : lengthLow n = (BitVec.ofNat 16 n).extractLsb' 0 8 := by
  apply BitVec.eq_of_toNat_eq
  simp only [lengthLow, BitVec.extractLsb'_toNat, BitVec.toNat_ofNat, Nat.shiftRight_zero]
  omega

/-! ### The header word (R71) -/

/-- The header word is the opcode and the two length bytes side by side. -/
theorem headerWord_cons (op hi lo : Byte) (payload : List Byte) :
    headerWord (op :: hi :: lo :: payload) = op ++ (hi ++ lo) := by
  have h := BitVec.setWidth_append_append_eq_shiftLeft_setWidth_or (b := op) (b' := hi) (b'' := lo) (w''' := 24)
  rw [BitVec.append_assoc, BitVec.setWidth_cast] at h
  simpa [headerWord] using h.symm

theorem opcode_headerWord (op hi lo : Byte) (payload : List Byte) :
    (headerWord (op :: hi :: lo :: payload)).extractLsb' 16 8 = op := by
  rw [headerWord_cons]
  exact BitVec.extractLsb'_append_eq_left

theorem length_headerWord (op hi lo : Byte) (payload : List Byte) :
    ((headerWord (op :: hi :: lo :: payload)).extractLsb' 0 16).toNat = lengthField (op :: hi :: lo :: payload) := by
  have hlow : (headerWord (op :: hi :: lo :: payload)).extractLsb' 0 16 = hi ++ lo := by
    rw [headerWord_cons]
    exact BitVec.extractLsb'_append_eq_right
  rw [hlow, BitVec.toNat_append, ← Nat.shiftLeft_add_eq_or_of_lt lo.isLt, Nat.shiftLeft_eq, lengthField]

end Sys2Proof

namespace Sys2Proof.Machine

/-- Settles O5: the length bytes are the two halves of `n`, and the header word holds the opcode above them. -/
theorem dataHeaderIsBigEndian : Obligations.DataHeaderIsBigEndian := by
  intro c b hv hb
  have hn := lengthField_dataFrame (c := c) (length_le_of_chunkOk hv hb)
  exact ⟨rfl, congrArg some (lengthHigh_eq_extractLsb' b.length), congrArg some (lengthLow_eq_extractLsb' b.length),
    opcode_headerWord .., (length_headerWord ..).trans hn, hn, length_dataFrame hb⟩

end Sys2Proof.Machine

/-! SUPPORT. The canonical form of the buffers (log 1), kept by every operation: a buffer is left as it is or written whole. -/

namespace Sys2Proof.Machine

/-- Both frame buffers are in canonical form. -/
def BuffersCanonical (s : State) : Prop :=
  Memory.wf s.tx = true ∧ Memory.wf s.rx = true

section
variable {s : State} (h : BuffersCanonical s)
include h

theorem BuffersCanonical.of_eq {t : State} (htx : t.tx = s.tx) (hrx : t.rx = s.rx) : BuffersCanonical t := by
  rwa [BuffersCanonical, htx, hrx]

/-- A formatter writes all of `tx` (R46). -/
theorem BuffersCanonical.of_tx {t : State} {bytes : List Byte} (htx : t.tx = Memory.ofBytes bytes) (hrx : t.rx = s.rx) :
    BuffersCanonical t :=
  ⟨by rw [htx, Memory.wf_ofBytes], by rw [hrx, h.2]⟩

theorem BuffersCanonical.fail (code : ErrCode) : BuffersCanonical (s.fail code) :=
  h.of_eq (State.fail_tx s code) (State.fail_rx s code)

/-- A transaction writes all of `rx`, whatever it answers (R30). -/
theorem BuffersCanonical.afterTransact (bytes : List Byte) : BuffersCanonical (afterTransact s bytes) := by
  cases hn : busNow s with
  | fault => exact afterTransact_fault hn ▸ ⟨h.1, Memory.wf_ofBytes _⟩
  | ok rb => exact afterTransact_ok hn ▸ ⟨h.1, Memory.wf_ofBytes _⟩

/-! ### The transactions -/

theorem transactStart_buffersCanonical {t : State} (ht : transactStart s = .next t) : BuffersCanonical t := by
  obtain ⟨bytes, -, ⟨-, rfl⟩ | ⟨rb, ack, -, -, -, ⟨-, rfl⟩ | ⟨-, rfl⟩⟩⟩ := transactStart_next ht
  · exact (h.afterTransact bytes).fail _
  · exact (h.afterTransact bytes).of_eq rfl rfl
  · exact (h.afterTransact bytes).of_tx rfl rfl

theorem transactData_buffersCanonical {t : State} (ht : transactData s = .next t) : BuffersCanonical t := by
  obtain ⟨bytes, -, ⟨-, rfl⟩ | ⟨rb, -, -, ⟨-, rfl⟩ | ⟨-, rfl⟩⟩⟩ := transactData_next ht
  · exact (h.afterTransact bytes).fail _
  · exact (h.afterTransact bytes).of_tx rfl rfl
  · exact (h.afterTransact bytes).of_eq rfl rfl

theorem transactEnd_buffersCanonical {t : State} (ht : transactEnd s = .next t) : BuffersCanonical t := by
  obtain ⟨bytes, -, ⟨-, rfl⟩ | ⟨rb, -, -, rfl⟩⟩ := transactEnd_next ht
  · exact (h.afterTransact bytes).fail _
  · exact (h.afterTransact bytes).of_eq rfl rfl

/-! ### The instructions -/

theorem execOpRequest_buffersCanonical {t : State} (ht : exec .opRequest s = .next t) : BuffersCanonical t := by
  rcases execOpRequest_next ht with ⟨-, rfl⟩ | ⟨-, -, ⟨-, rfl⟩ | ⟨size, -, -, rfl⟩⟩
  · exact h
  · exact h.of_eq (State.fail_tx _ _) (State.fail_rx _ _)
  · exact h.of_tx rfl rfl

theorem execOpFetch_buffersCanonical {t : State} (ht : exec .opFetch s = .next t) : BuffersCanonical t := by
  obtain ⟨-, -, ⟨-, rfl⟩ | ⟨b, -, -, rfl⟩ | ⟨b, -, -, -, rfl⟩⟩ := execOpFetch_next ht
  · exact h.of_eq (State.fail_tx _ _) (State.fail_rx _ _)
  · exact h.of_tx rfl rfl
  · exact h.of_tx rfl rfl

theorem exec_buffersCanonical {i : Instr} {t : State} (ht : exec i s = .next t) : BuffersCanonical t := by
  cases i with
  | frameStart =>
    obtain ⟨-, -, ht⟩ := execFrameStart_next ht
    exact transactStart_buffersCanonical (h.of_tx (buildStart_tx s) rfl) ht
  | frameData b =>
    obtain ⟨-, -, -, ht⟩ := execFrameData_next ht
    exact transactData_buffersCanonical (h.of_tx (buildData_tx s b) rfl) ht
  | frameEnd =>
    obtain ⟨-, -, ht⟩ := execFrameEnd_next ht
    exact transactEnd_buffersCanonical (h.of_tx (buildEnd_tx s) rfl) ht
  | opRequest => exact execOpRequest_buffersCanonical h ht
  | opPoll =>
    obtain ⟨-, -, -, rfl⟩ := execOpPoll_next ht
    exact h
  | opXactStart => exact transactStart_buffersCanonical h (execOpXactStart_next ht).2.2
  | opFetch => exact execOpFetch_buffersCanonical h ht
  | opXactData => exact transactData_buffersCanonical h (execOpXactData_next ht).2.2
  | opXactEnd => exact transactEnd_buffersCanonical h (execOpXactEnd_next ht).2.2
  | opClose =>
    obtain ⟨-, -, -, rfl⟩ := execOpClose_next ht
    exact h
  | opOpen =>
    rcases execOpOpen_next ht with ⟨-, rfl⟩ | ⟨size, -, -, rfl⟩
    · exact h
    · exact h
  | opRead =>
    rcases execOpRead_next ht with ⟨-, rfl⟩ | ⟨count, b, -, -, -, rfl⟩
    · exact h
    · exact h
  | opSrcClose =>
    cases ht
    exact h
  | opBuildStart | opBuildEnd =>
    cases ht
    exact h.of_tx rfl rfl
  | opBuildData b =>
    obtain ⟨-, rfl⟩ := execOpBuildData_next ht
    exact h.of_tx rfl rfl

end

/-- Settles O38, instruction by instruction. -/
theorem everyInstructionKeepsBuffersCanonical : Obligations.EveryInstructionKeepsBuffersCanonical := by
  intro i s t ht htx hrx
  exact exec_buffersCanonical ⟨htx, hrx⟩ ht

end Sys2Proof.Machine

/-! SUPPORT. The loops of the formatters (R89 to R91): what each byte reads after a loop, and that a canonical buffer is given by
what its bytes read. -/

namespace Sys2Proof

/-! ### The frames, byte by byte (R68 to R70) -/

/-- START and END: the opcode, and zeros after it. -/
theorem getElem?_bareFrame {op : Byte} {F : Nat} (hF : 3 ≤ F) (i : Nat) :
    ([op, 0, 0] ++ zeros (F - 3))[i]? = if i = 0 then some op else if i < F then some 0 else none := by
  match i with
  | 0 => rfl
  | 1 => exact (if_pos (show 1 < F by omega)).symm
  | 2 => exact (if_pos (show 2 < F by omega)).symm
  | i + 3 => simp [zeros, List.getElem?_replicate, Nat.lt_sub_iff_add_lt]

/-- DATA: the header, the chunk in file order, and zeros after it. -/
theorem getElem?_dataFrame {c : Config} {b : List Byte} (hb : chunkOk c b = true) (i : Nat) :
    (dataFrame c b)[i]? =
      if i = 0 then some c.opData
      else if i = 1 then some (lengthHigh b.length)
      else if i = 2 then some (lengthLow b.length)
      else if i < 3 + b.length then b[i - 3]?
      else if i < c.frameSize then some 0 else none := by
  match i with
  | 0 | 1 | 2 => rfl
  | i + 3 =>
    obtain ⟨-, hcap, hsize⟩ := (chunkOk_iff c b).mp hb
    have hchunk : i + 3 < 3 + b.length ↔ i < b.length := by omega
    by_cases hi : i < b.length
    · simp [dataFrame, hchunk, hi, List.getElem?_append]
    · have hpad : i - b.length < c.frameSize - 3 - b.length ↔ i + 3 < c.frameSize := by omega
      simp [dataFrame, zeros, hchunk, hi, hpad, List.getElem?_append, List.getElem?_replicate]

end Sys2Proof

namespace Sys2Proof.Machine

/-! ### Canonical buffers -/

theorem Memory.read_cons_of_lt {k a : Nat} {b : Byte} {rest : Memory} (hw : Memory.wf ((k, b) :: rest) = true)
    (ha : a < k) : Memory.read ((k, b) :: rest) a = none := by
  rw [Memory.read, if_neg ha.ne', Memory.read_of_lt (Memory.wf_cons.mp hw).1 ha.le]

/-- A canonical buffer is given by what its bytes read (log 1). -/
theorem Memory.ext_of_wf {m m' : Memory} (hw : Memory.wf m = true) (hw' : Memory.wf m' = true)
    (h : ∀ i, Memory.read m i = Memory.read m' i) : m = m' := by
  induction m generalizing m' with
  | nil =>
    cases m' with
    | nil => rfl
    | cons y rest' => simpa [Memory.read] using h y.1
  | cons x rest ih =>
    obtain ⟨k, b⟩ := x
    cases m' with
    | nil => simpa [Memory.read] using h k
    | cons y rest' =>
      obtain ⟨k', b'⟩ := y
      have hfirst : Memory.read ((k', b') :: rest') k = some b := (h k).symm.trans (if_pos rfl)
      have hfirst' : Memory.read ((k, b) :: rest) k' = some b' := (h k').trans (if_pos rfl)
      obtain hk | rfl | hk := lt_trichotomy k k'
      · simp [Memory.read_cons_of_lt hw' hk] at hfirst
      · obtain rfl : b' = b := by simpa [Memory.read] using hfirst
        obtain ⟨habove, hrest⟩ := Memory.wf_cons.mp hw
        obtain ⟨habove', hrest'⟩ := Memory.wf_cons.mp hw'
        rw [ih hrest hrest' fun i => ?_]
        by_cases hi : k = i
        · rw [Memory.read_of_lt habove hi.ge, Memory.read_of_lt habove' hi.ge]
        · simpa [Memory.read, hi] using h i
      · simp [Memory.read_cons_of_lt hw hk] at hfirst'

/-- A canonical buffer in which every offset reads as in `bytes` is the whole-buffer write of `bytes`. -/
theorem Memory.eq_ofBytes {m : Memory} {bytes : List Byte} (hw : Memory.wf m = true)
    (h : ∀ i, Memory.read m i = bytes[i]?) : m = Memory.ofBytes bytes :=
  Memory.ext_of_wf hw (Memory.wf_ofBytes bytes) fun i => by rw [h, Memory.read_ofBytes]

/-! ### The loops -/

theorem zeroLoop_succ (m : Memory) (a n : Nat) : zeroLoop m a (n + 1) = Memory.write (zeroLoop m a n) (a + n) 0 := by
  simp [zeroLoop, List.range_succ]

theorem wf_zeroLoop {m : Memory} (a n : Nat) (h : Memory.wf m = true) : Memory.wf (zeroLoop m a n) = true := by
  induction n with
  | zero => exact h
  | succ n ih =>
    rw [zeroLoop_succ]
    exact Memory.wf_write _ _ ih

theorem read_zeroLoop (m : Memory) (a n i : Nat) :
    Memory.read (zeroLoop m a n) i = if a ≤ i ∧ i < a + n then some 0 else Memory.read m i := by
  induction n with
  | zero =>
    rw [if_neg (by omega)]
    rfl
  | succ n ih =>
    rw [zeroLoop_succ, Memory.read_write, ih]
    by_cases hi : i = a + n
    · simp [hi]
    · have hlast : i < a + (n + 1) ↔ i < a + n := by omega
      simp [hi, hlast]

theorem wf_copyLoop {m : Memory} (a : Nat) (b : List Byte) (h : Memory.wf m = true) :
    Memory.wf (copyLoop m a b) = true := by
  induction b generalizing m a with
  | nil => exact h
  | cons x rest ih => exact ih (a + 1) (Memory.wf_write a x h)

theorem read_copyLoop (m : Memory) (a : Nat) (b : List Byte) (i : Nat) :
    Memory.read (copyLoop m a b) i = if a ≤ i ∧ i < a + b.length then b[i - a]? else Memory.read m i := by
  induction b generalizing m a with
  | nil =>
    rw [if_neg (by simp)]
    rfl
  | cons x rest ih =>
    rw [copyLoop, ih, Memory.read_write]
    by_cases hi : i = a
    · simp [hi]
    · by_cases ha : a + 1 ≤ i
      · obtain ⟨j, rfl⟩ := Nat.exists_eq_add_of_le ha
        have hj : a + 1 + j - a = j + 1 := by omega
        have hlt : a + 1 + j < a + (rest.length + 1) ↔ j < rest.length := by omega
        have hle : a ≤ a + 1 + j := by omega
        simp [hi, hj, hlt, hle]
      · rw [if_neg (by omega), if_neg hi, if_neg (by omega)]

/-! ### The formatters -/

/-- The loop of R89 and R91: the buffer is cleared, then the opcode is written. -/
theorem write_zeroLoop_eq_ofBytes {tx : Memory} {F : Nat} (op : Byte) (hF : 3 ≤ F) (hw : Memory.wf tx = true)
    (hout : ∀ a, F ≤ a → Memory.read tx a = none) :
    Memory.write (zeroLoop tx 0 F) 0 op = Memory.ofBytes ([op, 0, 0] ++ zeros (F - 3)) := by
  refine Memory.eq_ofBytes (Memory.wf_write 0 op (wf_zeroLoop 0 F hw)) fun i => ?_
  rw [Memory.read_write, read_zeroLoop, getElem?_bareFrame hF]
  by_cases hi : i < F
  · simp [hi]
  · simp [hi, hout i (Nat.le_of_not_gt hi)]

theorem wf_buildDataLoop {tx : Memory} (c : Config) (b : List Byte) (hw : Memory.wf tx = true) :
    Memory.wf (buildDataLoop c b tx) = true :=
  wf_zeroLoop _ _ (wf_copyLoop _ _ (Memory.wf_write _ _ (Memory.wf_write _ _ (Memory.wf_write _ _ hw))))

theorem buildDataLoop_eq_ofBytes {c : Config} {tx : Memory} {b : List Byte} (hb : chunkOk c b = true)
    (hw : Memory.wf tx = true) (hout : ∀ a, c.frameSize ≤ a → Memory.read tx a = none) :
    buildDataLoop c b tx = Memory.ofBytes (dataFrame c b) := by
  refine Memory.eq_ofBytes (wf_buildDataLoop c b hw) fun i => ?_
  obtain ⟨-, hcap, hsize⟩ := (chunkOk_iff c b).mp hb
  have hzeros : 3 + b.length + (c.frameSize - (3 + b.length)) = c.frameSize := by omega
  simp only [buildDataLoop, read_zeroLoop, read_copyLoop, Memory.read_write, getElem?_dataFrame hb, hzeros]
  by_cases hpad : 3 + b.length ≤ i
  · have hne : i ≠ 0 ∧ i ≠ 1 ∧ i ≠ 2 ∧ ¬i < 3 + b.length := by omega
    by_cases hi : i < c.frameSize
    · simp [hpad, hne, hi]
    · simp [hpad, hne, hi, hout i (Nat.le_of_not_gt hi)]
  · match i with
    | 0 | 1 | 2 => simp [hpad]
    | i + 3 => simp [hpad, Nat.lt_of_not_ge hpad]

/-- Settles O17: the loops leave a canonical buffer that reads as the frame. -/
theorem pseudocodeLoopsEqualTheWholeBufferWrite : Obligations.PseudocodeLoopsEqualTheWholeBufferWrite := by
  intro c tx b hv hw hout
  obtain ⟨-, hsize, -⟩ := (Config.valid_iff c).mp hv
  have hF : 3 ≤ c.frameSize := by omega
  exact ⟨write_zeroLoop_eq_ofBytes c.opStart hF hw hout, write_zeroLoop_eq_ofBytes c.opEnd hF hw hout,
    fun hb => buildDataLoop_eq_ofBytes hb hw hout⟩

end Sys2Proof.Machine

/-! SUPPORT. The frame decoder, clause by clause (R72 to R74), and the two round trips between words and instructions. -/

namespace Sys2Proof

/-! ### The checks of `classify`, in its order (R72) -/

/-- A string of `F` bytes is classified by its opcode, its length field and the bytes from offset 3 on. -/
theorem decodeFrame_eq_classifyFields {c : Config} {fr : List Byte} {op : Byte} (hv : c.valid = true)
    (hlen : fr.length = c.frameSize) (hop : fr[0]? = some op) :
    decodeFrame c fr = classifyFields c op (lengthField fr) (fr.drop 3) := by
  obtain ⟨h1, hsize, -⟩ := (Config.valid_iff c).mp hv
  rw [decodeFrame, if_pos hlen]
  match fr with
  | [] | [_] | [_, _] => simp at hlen; omega
  | x :: hi :: lo :: payload =>
    obtain rfl : x = op := by simpa using hop
    rfl

/-- The padding of a frame has a nonzero byte exactly if one stands after the payload (R74). -/
theorem any_padding_iff (fr : List Byte) (n : Nat) :
    ((fr.drop 3).drop n).any (· != 0) = true ↔ ∃ k b, 3 + n ≤ k ∧ fr[k]? = some b ∧ b ≠ 0 := by
  simp only [List.any_eq_true, List.drop_drop, List.mem_iff_getElem?, List.getElem?_drop, bne_iff_ne]
  constructor
  · rintro ⟨b, ⟨i, hi⟩, hb⟩
    exact ⟨3 + n + i, b, Nat.le_add_right _ _, hi, hb⟩
  · rintro ⟨k, b, hk, hi, hb⟩
    exact ⟨b, ⟨k - (3 + n), by rwa [Nat.add_sub_cancel' hk]⟩, hb⟩

section
variable {c : Config} {op : Byte} {n : Nat} {payload : List Byte}

theorem classifyFields_badOpcode (hs : op ≠ c.opStart) (hd : op ≠ c.opData) (he : op ≠ c.opEnd) :
    classifyFields c op n payload = .reject .badOpcode :=
  if_pos ⟨hs, hd, he⟩

/-- START and END carry no length. -/
theorem classifyFields_badLength_bare (hop : op = c.opStart ∨ op = c.opEnd) (hn : n ≠ 0) :
    classifyFields c op n payload = .reject .badLength := by
  rw [classifyFields, if_neg (by tauto), if_pos ⟨hop, hn⟩]

/-- DATA carries `1..C` bytes. -/
theorem classifyFields_badLength_data (hop : op = c.opData) (hn : n = 0 ∨ n > c.chunkCap) :
    classifyFields c op n payload = .reject .badLength := by
  rw [classifyFields, if_neg (by tauto), if_pos (show op = c.opData ∧ _ from ⟨hop, hn⟩), ite_self]

/-- After START or END with length 0 only the padding is left to check. -/
theorem classifyFields_bare (hv : c.valid = true) (hop : op = c.opStart ∨ op = c.opEnd) :
    classifyFields c op 0 payload =
      if (payload.drop 0).any (· != 0) then .reject .nonzeroPadding
      else if op = c.opStart then .ok .frameStart else .ok .frameEnd := by
  obtain ⟨-, -, -, hsd, -, hde, -⟩ := (Config.valid_iff c).mp hv
  have hd : op ≠ c.opData := by rcases hop with rfl | rfl; exacts [hsd, hde.symm]
  rw [classifyFields, if_neg (by tauto), if_neg (by simp), if_neg (by simp [hd])]
  by_cases hs : op = c.opStart
  · simp only [if_pos hs]
  · simp only [if_neg hs, if_pos (hop.resolve_left hs)]

/-- After DATA with a length in `1..C` only the padding is left to check. -/
theorem classifyFields_data (hv : c.valid = true) (h1 : 1 ≤ n) (hcap : n ≤ c.chunkCap) :
    classifyFields c c.opData n payload =
      if (payload.drop n).any (· != 0) then .reject .nonzeroPadding else .ok (.frameData (payload.take n)) := by
  obtain ⟨-, -, -, hsd, -, hde, -⟩ := (Config.valid_iff c).mp hv
  rw [classifyFields, if_neg (by simp), if_neg (by simp [hsd.symm, hde]), if_neg (by omega), if_neg hsd.symm, if_neg hde]

end

/-- Settles O4: each clause is one check of `classifyFields`, and the padding is read byte by byte. -/
theorem classifyDecidesEveryFrame : Obligations.ClassifyDecidesEveryFrame := by
  intro c fr op hv hlen hfirst
  obtain ⟨-, -, -, -, hse, -, -⟩ := (Config.valid_iff c).mp hv
  rw [decodeFrame_eq_classifyFields hv hlen hfirst]
  have hclean {m : Nat} (h : ∀ k b, 3 + m ≤ k → fr[k]? = some b → b = 0) :
      ¬((fr.drop 3).drop m).any (· != 0) = true := by
    intro hany
    obtain ⟨k, b, hk, hb, hne⟩ := (any_padding_iff fr m).mp hany
    exact hne (h k b hk hb)
  refine ⟨classifyFields_badOpcode, classifyFields_badLength_bare, classifyFields_badLength_data,
    fun hop hn hpad => ?_, fun hop h1 hcap hpad => ?_, fun hn hpad => ⟨fun hop => ?_, fun hop => ?_⟩,
    fun hop h1 hcap hpad => ?_⟩
  · rw [hn, classifyFields_bare hv hop, if_pos ((any_padding_iff fr 0).mpr hpad)]
  · rw [hop, classifyFields_data hv h1 hcap, if_pos ((any_padding_iff fr _).mpr hpad)]
  · rw [hn, classifyFields_bare hv (.inl hop), if_neg (hclean hpad), if_pos hop]
  · rw [hn, classifyFields_bare hv (.inr hop), if_neg (hclean hpad), if_neg (hop ▸ hse.symm)]
  · rw [hop, classifyFields_data hv h1 hcap, if_neg (hclean hpad)]

/-! ### Reading back an encoding (R67) -/

theorem any_zeros (n : Nat) : (zeros n).any (· != 0) = false := by
  simp [zeros]

theorem decodeFrame_startFrame {c : Config} (hv : c.valid = true) : decodeFrame c (startFrame c) = .ok .frameStart := by
  rw [decodeFrame_eq_classifyFields (op := c.opStart) hv (length_startFrame hv) rfl, lengthField_startFrame,
    classifyFields_bare hv (.inl rfl), if_pos rfl]
  exact if_neg (Bool.eq_false_iff.mp (any_zeros _))

theorem decodeFrame_endFrame {c : Config} (hv : c.valid = true) : decodeFrame c (endFrame c) = .ok .frameEnd := by
  obtain ⟨-, -, -, -, hse, -, -⟩ := (Config.valid_iff c).mp hv
  rw [decodeFrame_eq_classifyFields (op := c.opEnd) hv (length_endFrame hv) rfl, lengthField_endFrame,
    classifyFields_bare hv (.inr rfl), if_neg hse.symm]
  exact if_neg (Bool.eq_false_iff.mp (any_zeros _))

theorem Session.code_ofCode (w : BitVec 3) : (Session.ofCode w).code = w := by
  revert w
  decide

theorem Phase.code_ofCode (w : BitVec 3) : (Phase.ofCode w).code = w := by
  revert w
  decide

/-- A control-point word is the word of the pair it stands for (R80). -/
theorem controlWord_ofCode (w : BitVec 6) :
    controlWord (Session.ofCode (w.extractLsb' 0 3)) (Phase.ofCode (w.extractLsb' 3 3)) = w := by
  rw [controlWord, Session.code_ofCode, Phase.code_ofCode]
  exact (BitVec.extractLsb'_append_extractLsb'_eq_extractLsb' (show 3 = 0 + 3 from rfl)).trans BitVec.extractLsb'_eq_self

end Sys2Proof

namespace Sys2Proof.Machine

/-- Settles O2: the frames read back by `classify`, the control points by the table of R27. -/
theorem decodeReadsBackEveryEncodedInstruction : Obligations.DecodeReadsBackEveryEncodedInstruction := by
  intro c i w hv hi hw
  cases i with
  | frameStart =>
    cases hw
    exact decodeFrame_startFrame hv
  | frameData b =>
    cases hw
    exact decodeFrame_dataFrame hv hi
  | frameEnd =>
    cases hw
    exact decodeFrame_endFrame hv
  | opRequest | opXactStart | opFetch | opXactData | opXactEnd =>
    cases hw
    exact decodeControl_controlWord _ _
  | opPoll st =>
    cases hw
    have hst : st = .await ∨ st = .xfer ∨ st = .compl := of_decide_eq_true hi
    rcases hst with rfl | rfl | rfl <;> exact decodeControl_controlWord _ _
  | opClose st =>
    cases hw
    have hst : st = .completed ∨ st = .failed := of_decide_eq_true hi
    rcases hst with rfl | rfl <;> exact decodeControl_controlWord _ _
  | opOpen | opRead | opSrcClose | opBuildStart | opBuildData | opBuildEnd => cases hw

/-- An operation the control point selects is well formed, and its encoding is the word of the point (R27, R80). -/
theorem encode_of_decodePoint {c : Config} {st : Session} {ph : Phase} {i : Instr} (h : decodePoint st ph = .ok i) :
    i.wellFormed c = true ∧ encode c i = some (.control (controlWord st ph)) := by
  rcases decodePoint_eq_ok h with ⟨rfl, rfl, rfl⟩ | ⟨hst, rfl, rfl⟩ | ⟨rfl, rfl, rfl⟩ | ⟨rfl, rfl, rfl⟩ |
    ⟨rfl, rfl, rfl⟩ | ⟨rfl, rfl, rfl⟩ | ⟨hst, rfl, rfl⟩
  · exact ⟨rfl, rfl⟩
  · exact ⟨decide_eq_true hst, rfl⟩
  · exact ⟨rfl, rfl⟩
  · exact ⟨rfl, rfl⟩
  · exact ⟨rfl, rfl⟩
  · exact ⟨rfl, rfl⟩
  · exact ⟨decide_eq_true hst, rfl⟩

/-- Settles O3: a frame is given by what it decodes to, and a control-point word by its pair. -/
theorem everyDecodedWordIsTheEncodingOfItsInstruction :
    Obligations.EveryDecodedWordIsTheEncodingOfItsInstruction := by
  intro c w i hv hdec
  cases w with
  | frame fr =>
    rcases decodeFrame_eq_ok hv hdec with ⟨rfl, rfl⟩ | ⟨rfl, rfl⟩ | ⟨b, rfl, hb, rfl⟩
    · exact ⟨rfl, rfl⟩
    · exact ⟨rfl, rfl⟩
    · exact ⟨hb, rfl⟩
  | control w =>
    obtain ⟨hwf, henc⟩ := encode_of_decodePoint (c := c) hdec
    rw [controlWord_ofCode] at henc
    exact ⟨hwf, henc⟩

end Sys2Proof.Machine

/-! SUPPORT. The transactions that return `BusOk`, with their whole next state (R103, R105, R106), and what a reply and a sample
of readiness leave of the block (R76, R79, R119). -/

namespace Sys2Proof.Machine

/-! ### A transaction that returns `BusOk` -/

section
variable {s : State} {bytes rb : List Byte} (hb : readTx s = .next bytes) (hn : busNow s = .ok rb)
  (hl : rb.length = s.cfg.frameSize)
include hb hn hl

theorem transact_of_ok : transact s = .next (bytes, .ok rb,
    { s with rx := Memory.ofBytes rb, env := s.env.usedBus,
             trace := s.trace ++ [.transact bytes s.cfg.busBits (.ok rb)] }) := by
  refine transact_eq_next.mpr ⟨bytes, hb, ?_, ?_⟩
  · simp [hn, BusAnswer.meets, hl]
  · rw [hn, afterTransact_ok hn]

/-- R103: the byte at `ACK_INDEX` decides between XFER and another handshake. -/
theorem transactStart_of_ok {ack : Byte} (hack : rb[s.cfg.ackIndex]? = some ack) : transactStart s = .next { s with
    st := if ack = 0 then .await else .xfer, ph := if ack = 0 then .wait else .fetch,
    tx := if ack = 0 then Memory.ofBytes (startFrame s.cfg) else s.tx, rx := Memory.ofBytes rb,
    env := s.env.usedBus, trace := s.trace ++ [.transact bytes s.cfg.busBits (.ok rb)] } := by
  rw [transactStart, transact_of_ok hb hn hl, andThen_next]
  simp only
  rw [readRx_ofBytes rfl hack, andThen_next]
  by_cases h0 : ack = 0
  · rw [if_neg (not_not.mpr h0), if_pos h0, if_pos h0, if_pos h0]
    rfl
  · rw [if_pos h0, if_neg h0, if_neg h0, if_neg h0]
    rfl

/-- R105: the counters advance, and `last` decides between END and the next chunk. -/
theorem transactData_of_ok : transactData s = .next { s with
    st := if s.last then .compl else .xfer, ph := if s.last then .wait else .fetch,
    tx := if s.last then Memory.ofBytes (endFrame s.cfg) else s.tx, rx := Memory.ofBytes rb,
    bytesSent := addW s.cfg s.bytesSent (lengthField bytes), seq := addW s.cfg s.seq 1,
    env := s.env.usedBus, trace := s.trace ++ [.transact bytes s.cfg.busBits (.ok rb)] } := by
  rw [transactData, transact_of_ok hb hn hl, andThen_next]
  cases s.last <;> rfl

/-- R106. -/
theorem transactEnd_of_ok : transactEnd s = .next { s with
    st := .completed, ph := .close, rx := Memory.ofBytes rb, env := s.env.usedBus,
    trace := s.trace ++ [.transact bytes s.cfg.busBits (.ok rb)] } := by
  rw [transactEnd, transact_of_ok hb hn hl]
  rfl

end

/-- Settles O31: the frame just built is what its transaction finds in `tx`. -/
theorem frameInstructionsSendTheirFrame : Obligations.FrameInstructionsSendTheirFrame := by
  intro s rb hv hph hn hl
  obtain ⟨hstart, hdata, hend⟩ := frameInstructionIsItsTransaction s
  refine ⟨fun hst ack hack => ?_, fun hst b hb => ?_, fun hst => ?_⟩
  · have htx : readTx (buildStart s) = .next (startFrame s.cfg) := readTx_ofBytes rfl (length_startFrame hv)
    refine hstart.trans ((exec_opXactStart_of_isAt (s := buildStart s) hph hst).trans
      ((transactStart_of_ok htx hn hl hack).trans ?_))
    rw [buildStart_tx, buildStart_cfg, ite_self]
    rfl
  · have htx : readTx (buildData b s) = .next (dataFrame s.cfg b) := readTx_ofBytes rfl (length_dataFrame hb)
    refine (hdata b hb).trans ((exec_opXactData_of_isAt (s := buildData b s) hph hst).trans
      ((transactData_of_ok htx hn hl).trans ?_))
    rw [lengthField_dataFrame (length_le_of_chunkOk hv hb), apply_ite Memory.ofBytes]
    rfl
  · have htx : readTx (buildEnd s) = .next (endFrame s.cfg) := readTx_ofBytes rfl (length_endFrame hv)
    exact hend.trans ((exec_opXactEnd_of_isAt (s := buildEnd s) hph hst).trans (transactEnd_of_ok htx hn hl))

/-! ### The step at ISSUE -/

section
variable {s : State} (hv : s.cfg.valid = true) (hr : (hostNow s).reset = false)
include hv hr

theorem step_at_await_issue (hst : s.st = .await) (hph : s.ph = .issue) : step s = transactStart s.takeHost :=
  (step_eq_exec (i := .opXactStart) hv hr (by rw [hst, hph]; rfl) nofun).trans
    (exec_opXactStart_of_isAt (s := s.takeHost) hph hst)

theorem step_at_xfer_issue (hst : s.st = .xfer) (hph : s.ph = .issue) : step s = transactData s.takeHost :=
  (step_eq_exec (i := .opXactData) hv hr (by rw [hst, hph]; rfl) nofun).trans
    (exec_opXactData_of_isAt (s := s.takeHost) hph hst)

theorem step_at_compl_issue (hst : s.st = .compl) (hph : s.ph = .issue) : step s = transactEnd s.takeHost :=
  (step_eq_exec (i := .opXactEnd) hv hr (by rw [hst, hph]; rfl) nofun).trans
    (exec_opXactEnd_of_isAt (s := s.takeHost) hph hst)

/-- Without `RESET` only the control points of R27 have a step. -/
theorem reachable_of_step {t : State} (h : step s = .next t) : (s.st, s.ph) ∈ reachablePoints := by
  by_contra hpoint
  rw [step_of_unreachable hv hr (decodePoint_of_unreachable hpoint)] at h
  cases h

end

/-- The block with a reply in front of the other answers of the bus. -/
def State.withReply (s : State) (rb : List Byte) (rest : List BusAnswer) : State :=
  { s with env := { s.env with bus := .ok rb :: rest } }

/-- Settles O41: the two steps are the same transaction on the same frame, and of its reply only whether the byte at `ACK_INDEX`
is zero decides what it leaves. -/
theorem repliesAreNotInspected : Obligations.RepliesAreNotInspected := by
  intro s t t' rb rb' rest hl hl' hack hr hph h h'
  change step (s.withReply rb rest) = _ at h
  change step (s.withReply rb' rest) = _ at h'
  have hv : s.cfg.valid = true := (step_next_cases h).1
  have hst : s.st = .await ∨ s.st = .xfer ∨ s.st = .compl := by
    simpa [State.withReply, hph, reachablePoints] using reachable_of_step (s := s.withReply rb rest) hv hr h
  rcases hst with hst | hst | hst
  · have hstep := fun rb => step_at_await_issue (s := s.withReply rb rest) hv hr hst hph
    rw [hstep] at h h'
    obtain ⟨bytes, hb, -⟩ := transactStart_next h
    have hok := fun rb hl ack => transactStart_of_ok (s := (s.withReply rb rest).takeHost) hb rfl hl (ack := ack)
    obtain ⟨-, -, -, -, -, -, hidx⟩ := (Config.valid_iff _).mp hv
    obtain ⟨ack, ha⟩ : ∃ ack, rb[s.cfg.ackIndex]? = some ack := ⟨_, List.getElem?_eq_getElem (hl ▸ hidx)⟩
    obtain ⟨ack', ha'⟩ : ∃ ack', rb'[s.cfg.ackIndex]? = some ack' := ⟨_, List.getElem?_eq_getElem (hl' ▸ hidx)⟩
    have hzero : ack = 0 ↔ ack' = 0 := by simpa [ha, ha'] using hack hst
    cases (hok rb hl ack ha).symm.trans h
    cases (hok rb' hl' ack' ha').symm.trans h'
    simp only [hzero]
    exact ⟨rfl, rfl, rfl, rfl, rfl, rfl, rfl, rfl, rfl, rfl, rfl⟩
  · have hstep := fun rb => step_at_xfer_issue (s := s.withReply rb rest) hv hr hst hph
    rw [hstep] at h h'
    obtain ⟨bytes, hb, -⟩ := transactData_next h
    have hok := fun rb => transactData_of_ok (s := (s.withReply rb rest).takeHost) hb rfl
    cases (hok rb hl).symm.trans h
    cases (hok rb' hl').symm.trans h'
    exact ⟨rfl, rfl, rfl, rfl, rfl, rfl, rfl, rfl, rfl, rfl, rfl⟩
  · have hstep := fun rb => step_at_compl_issue (s := s.withReply rb rest) hv hr hst hph
    rw [hstep] at h h'
    obtain ⟨bytes, hb, -⟩ := transactEnd_next h
    have hok := fun rb => transactEnd_of_ok (s := (s.withReply rb rest).takeHost) hb rfl
    cases (hok rb hl).symm.trans h
    cases (hok rb' hl').symm.trans h'
    exact ⟨rfl, rfl, rfl, rfl, rfl, rfl, rfl, rfl, rfl, rfl, rfl⟩

/-! ### Polling -/

/-- OP_POLL as a step: one sample, and `ISSUE` exactly if it is `true` (R102). -/
theorem step_of_poll {s : State} (hv : s.cfg.valid = true) (hr : (hostNow s).reset = false)
    (hst : s.st = .await ∨ s.st = .xfer ∨ s.st = .compl) (hph : s.ph = .wait) :
    step s = .next { s with ph := if sampleNow s then .issue else .wait, env := s.takeHost.env.usedReady,
                            trace := s.trace ++ [.ready (sampleNow s)] } := by
  have hd : decodePoint s.st s.ph = .ok (.opPoll s.st) := by
    rw [hph]
    rcases hst with hst | hst | hst <;> rw [hst] <;> rfl
  rw [step_eq_exec hv hr hd nofun]
  exact if_pos (by simp [Instr.wellFormed, hst, hph])

/-- A host that gives no `RESET` at all gives none now. -/
theorem hostNow_reset_of_forall {s : State} (h : ∀ x ∈ s.env.host, x.reset = false) : (hostNow s).reset = false := by
  unfold hostNow
  cases hh : s.env.host with
  | nil => rfl
  | cons x rest => exact h x (by simp [hh])

/-- Each sample that is `false` leaves the block polling, and the first that is `true` ends in `ISSUE` (R79). -/
theorem run_of_poll {k : Nat} {s : State} (hv : s.cfg.valid = true) (hst : s.st = .await ∨ s.st = .xfer ∨ s.st = .compl)
    (hph : s.ph = .wait) (hready : s.env.ready = List.replicate k false ++ [true])
    (hhost : ∀ x ∈ s.env.host, x.reset = false) :
    ∃ e, Host.Core.run Sys2Proof.core (k + 1) s = .next { s with
      ph := .issue, env := e, trace := s.trace ++ List.replicate k (.ready false) ++ [.ready true] } := by
  induction k generalizing s with
  | zero =>
    have hsample : sampleNow s = true := by simp [sampleNow, hready]
    have hstep := step_of_poll hv (hostNow_reset_of_forall hhost) hst hph
    rw [hsample] at hstep
    rw [List.replicate_zero, List.append_nil]
    exact ⟨_, run_succ_eq_next.mpr ⟨_, hstep, rfl⟩⟩
  | succ k ih =>
    obtain ⟨b, rest, hrest⟩ := List.exists_cons_of_ne_nil (show List.replicate k false ++ [true] ≠ [] by simp)
    have hready' : s.env.ready = false :: b :: rest := by rw [hready, List.replicate_succ, List.cons_append, hrest]
    have hsample : sampleNow s = false := by simp [sampleNow, hready']
    have hstep := step_of_poll hv (hostNow_reset_of_forall hhost) hst hph
    rw [hsample] at hstep
    have hhost' : ∀ x ∈ s.takeHost.env.usedReady.host, x.reset = false := by
      simpa using fun x hx => hhost x (List.mem_of_mem_tail hx)
    obtain ⟨e, hrun⟩ := ih (s := { s with
      ph := .wait, env := s.takeHost.env.usedReady, trace := s.trace ++ [.ready false] })
      hv hst rfl (by simp [Env.usedReady, hready', hrest]) hhost'
    rw [List.replicate_succ, List.append_cons s.trace]
    exact ⟨e, run_succ_eq_next.mpr ⟨_, hstep, hrun⟩⟩

/-- Settles O58: the run of the samples. -/
theorem pollingEndsAtTheFirstAssertedSample : Obligations.PollingEndsAtTheFirstAssertedSample := by
  intro k s hv hst hph hready hhost
  obtain ⟨e, hrun⟩ := run_of_poll hv hst hph hready hhost
  exact ⟨_, hrun, rfl⟩

end Sys2Proof.Machine

/-! SUPPORT. The Frame Builder's calls with their whole effect (R86 to R91), and what every run keeps of the source's and the
chunks' books (R92, R115, R116). -/

namespace Sys2Proof.Machine

/-! ### The formatters -/

/-- Settles O15: the whole-buffer write reads as the frame, byte by byte. -/
theorem buildStartAndEndWriteTheWholeBuffer : Obligations.BuildStartAndEndWriteTheWholeBuffer := by
  intro s hv
  obtain ⟨-, hsize, -⟩ := (Config.valid_iff s.cfg).mp hv
  have hF : 3 ≤ s.cfg.frameSize := by omega
  exact ⟨⟨buildStart s, rfl, rfl, fun a => (Memory.read_ofBytes _ a).trans (getElem?_bareFrame hF a)⟩,
    ⟨buildEnd s, rfl, rfl, fun a => (Memory.read_ofBytes _ a).trans (getElem?_bareFrame hF a)⟩⟩

/-- Settles O16: the chunk is within the bound of R90, and the whole-buffer write reads as its DATA frame. -/
theorem buildDataWritesHeaderChunkAndPadding : Obligations.BuildDataWritesHeaderChunkAndPadding := by
  intro s b hv h1 hcap
  have hb := chunkOk_of_valid hv h1 hcap
  exact ⟨buildData b s, if_pos hb, rfl, fun a => (Memory.read_ofBytes _ a).trans (getElem?_dataFrame hb a)⟩

/-! ### The stream operations -/

theorem exec_opOpen_of_next {s t : State} {r : OpenResult} (h : opOpen s = .next (r, t)) : exec .opOpen s = .next t := by
  change execOpOpen s = .next t
  rw [execOpOpen, h, andThen_next]

theorem exec_opRead_of_next {n : Nat} {s t : State} {r : ReadResult} (h : opRead n s = .next (r, t)) :
    exec (.opRead n) s = .next t := by
  change execOpRead n s = .next t
  rw [execOpRead, h, andThen_next]

/-- Settles O18, from what OP_OPEN can answer. -/
theorem openRecordsTheSourceSize : Obligations.OpenRecordsTheSourceSize := by
  intro s
  refine ⟨fun size ho hs => ?_, fun ho => ?_⟩
  · have h := opOpen_eq_next.mpr (.inr ⟨size, ho, hs, rfl⟩)
    exact ⟨exec_opOpen_of_next h, h⟩
  · have h := opOpen_eq_next.mpr (.inl ⟨ho, rfl⟩)
    exact ⟨exec_opOpen_of_next h, h⟩

/-- Settles O19, from what OP_READ can answer. -/
theorem readCountsTheBytesItDelivers : Obligations.ReadCountsTheBytesItDelivers := by
  intro s n
  refine ⟨fun b hr hn => ?_, fun hr => ?_⟩
  · have h := opRead_eq_next.mpr (.inr ⟨b.length, b, hr, hn, rfl, rfl⟩)
    exact ⟨exec_opRead_of_next h, h⟩
  · have h := opRead_eq_next.mpr (.inl ⟨hr, rfl⟩)
    exact ⟨exec_opRead_of_next h, h⟩

/-- Settles O20: the call is recorded, and that is all. -/
theorem sourceCloseWritesNoState : Obligations.SourceCloseWritesNoState := by
  intro s
  rfl

/-! ### Invariants along a run -/

/-- What holds right after reset and is kept by every step under the register invariant holds at the end of every run. -/
theorem Reaches.of_stepCase {P : State → Prop} (hboot : ∀ c e, P (State.boot c e))
    (hstep : ∀ s t, RegInv s → P s → StepCase s t → P t) {c : Config} {e : Env} {k : Nat} {t : State}
    (h : Reaches c e k t) : RegInv t ∧ P t :=
  h.of_invariant (P := fun s => RegInv s ∧ P s) (fun c e hv => ⟨regInv_boot e hv, hboot c e⟩) fun s t hs ht =>
    have hc := (step_next_cases ht).2
    ⟨hc.regInv hs.1, hstep s t hs.1 hs.2 hc⟩

/-- Settles O55: the clause of the source's books on final reads, along the run. -/
theorem noReadFollowsAFinalResult : Obligations.NoReadFollowsAFinalResult := by
  intro c e k t hreach pre n count b post hsplit hshort
  obtain ⟨-, -, hfinal, -⟩ := hreach.of_stepCase sourceBooks_boot fun _ _ hi h hc => hc.sourceBooks hi h
  refine hfinal pre _ post hsplit ?_
  rw [hreach.cfg_eq]
  exact decide_eq_true hshort

end Sys2Proof.Machine

/-! SUPPORT. The frames of a bus trace that are neither START nor END are the DATA frames of the chunks sent (R112, R115), and
the round trip of a completed session. -/

namespace Sys2Proof.Machine

/-! ### The frames that are neither START nor END -/

/-- The frames of a bus trace that are neither START nor END, in order. -/
def payloadFrames (c : Config) (bt : List (List Byte × BusAnswer)) : List (List Byte) :=
  bt.filterMap fun x => if x.1 = startFrame c ∨ x.1 = endFrame c then none else some x.1

theorem payloadFrames_append (c : Config) (bt bt' : List (List Byte × BusAnswer)) :
    payloadFrames c (bt ++ bt') = payloadFrames c bt ++ payloadFrames c bt' :=
  List.filterMap_append

theorem payloadFrames_bare {c : Config} {fr : List Byte} (h : fr = startFrame c ∨ fr = endFrame c) (a : BusAnswer) :
    payloadFrames c [(fr, a)] = [] := by
  simp [payloadFrames, h]

theorem payloadFrames_dataFrame {c : Config} (hv : c.valid = true) (b : List Byte) (a : BusAnswer) :
    payloadFrames c [(dataFrame c b, a)] = [dataFrame c b] := by
  simp [payloadFrames, (startFrame_ne_dataFrame hv b).symm, (endFrame_ne_dataFrame hv b).symm]

/-- Until the session fails, every frame on the bus that is neither START nor END is the DATA frame of a chunk sent. -/
def PayloadBooks (s : State) : Prop :=
  s.st ≠ .failed → payloadFrames s.cfg (busTrace s.trace) = (sentChunks s.cfg s.trace).map (dataFrame s.cfg)

theorem PayloadBooks.append {s t : State} {e : Event} (h : PayloadBooks s) (hst : s.st ≠ .failed) (hcfg : t.cfg = s.cfg)
    (htrace : t.trace = s.trace ++ [e])
    (he : payloadFrames s.cfg (busTrace [e]) = (sentChunks s.cfg [e]).map (dataFrame s.cfg)) : PayloadBooks t := by
  intro _
  rw [hcfg, htrace, busTrace_append, sentChunks_append, payloadFrames_append, List.map_append, h hst, he]

/-- A START or END frame is no payload, and no chunk is sent with it. -/
theorem PayloadBooks.append_bare {s t : State} {fr : List Byte} {n : Nat} {a : BusAnswer} (h : PayloadBooks s)
    (hv : s.cfg.valid = true) (hst : s.st ≠ .failed) (hcfg : t.cfg = s.cfg)
    (htrace : t.trace = s.trace ++ [.transact fr n a]) (hfr : fr = startFrame s.cfg ∨ fr = endFrame s.cfg) :
    PayloadBooks t := by
  have hne : ∀ b, fr ≠ dataFrame s.cfg b := by
    rcases hfr with rfl | rfl
    · exact startFrame_ne_dataFrame hv
    · exact endFrame_ne_dataFrame hv
  refine h.append hst hcfg htrace ?_
  rw [sentChunks_of_ne_dataFrame hv hne]
  exact payloadFrames_bare hfr a

/-- At `(XFER, ISSUE)` the frame sent is the DATA frame of a chunk (R109). -/
theorem RegInv.sends_data {s : State} {bytes : List Byte} (h : RegInv s) (hst : s.st = .xfer) (hph : s.ph = .issue)
    (hb : readTx s = .next bytes) : ∃ b, chunkOk s.cfg b = true ∧ bytes = dataFrame s.cfg b := by
  obtain ⟨b, hok, htx, -⟩ := (h.frame (.inr hph)).2.1 hst
  exact ⟨b, hok, eq_of_readTx htx (length_dataFrame hok) hb⟩

theorem PayloadBooks.append_data {s t : State} {bytes rb : List Byte} {n : Nat} (h : PayloadBooks s) (hi : RegInv s)
    (hst : s.st = .xfer) (hph : s.ph = .issue) (hb : readTx s = .next bytes) (hcfg : t.cfg = s.cfg)
    (htrace : t.trace = s.trace ++ [.transact bytes n (.ok rb)]) : PayloadBooks t := by
  obtain ⟨b, hok, rfl⟩ := hi.sends_data hst hph hb
  refine h.append (by simp [hst]) hcfg htrace ?_
  rw [sentChunks_dataFrame hi.valid hok]
  exact payloadFrames_dataFrame hi.valid b _

theorem payloadBooks_boot (c : Config) (e : Env) : PayloadBooks (State.boot c e) :=
  fun _ => rfl

/-- Every case of a step keeps the account of the frames. -/
theorem StepCase.payloadBooks {s t : State} (hc : StepCase s t) (hi : RegInv s) (h : PayloadBooks s) :
    PayloadBooks t := by
  cases hc with
  | reset => exact payloadBooks_boot _ _
  | waiting | halted => exact h
  | requestNotFound | busFault | fetchError => exact fun hst => absurd (State.fail_st _ _) hst
  | requestOk _ hst | fetchEmpty _ hst | fetchData _ hst => exact h.append (by simp [hst]) rfl rfl rfl
  | poll _ hst =>
    refine h.append ?_ rfl rfl rfl
    rcases hst with hst | hst | hst <;> simp [hst]
  | startAck _ hst hph bytes rb _ hb | startNack _ hst hph bytes rb hb =>
    exact h.append_bare hi.valid (by simp [hst]) rfl rfl (.inl (hi.sends_start hst hph hb))
  | dataLast _ hst hph bytes rb hb | dataMore _ hst hph bytes rb hb => exact h.append_data hi hst hph hb rfl rfl
  | endOk _ hst hph bytes rb hb =>
    exact h.append_bare hi.valid (by simp [hst]) rfl rfl (.inr (hi.sends_end hst hph hb))
  | close =>
    intro hst
    cases hheld : s.handleOpen with
    | false => simpa using h hst
    | true => exact h.append (e := .srcClose) hst rfl (by simp) rfl hst

/-! ### Completed sessions -/

/-- No cause is recorded outside `FAILED` (R28). -/
theorem RegInv.err_eq_none {s : State} (h : RegInv s) (hst : s.st ≠ .failed) : s.err = .none :=
  by_contra fun herr => hst (h.cause.1.mp herr)

/-- In a completed session no chunk is pending. -/
theorem ChunkBooks.sent_eq_delivered {s : State} (h : ChunkBooks s) (hi : RegInv s) (hst : s.st = .completed) :
    sentChunks s.cfg s.trace = deliveredChunks s.trace := by
  obtain ⟨⟨p, hp, hpending⟩, -⟩ := h
  have herr := hi.err_eq_none (by simp [hst])
  obtain rfl := hpending.eq_nil (by simp [hst]) (by simp [herr])
  rw [hp, List.append_nil]

/-- Settles O52: the account of the chunks and that of the frames, along the run, at a state with no chunk pending. -/
theorem completedSessionRoundTrips : Obligations.CompletedSessionRoundTrips := by
  intro c e k t hreach hst
  obtain ⟨hi, hbooks, hpayload⟩ := hreach.of_stepCase (P := fun s => ChunkBooks s ∧ PayloadBooks s)
    (fun c e => ⟨chunkBooks_boot c e, payloadBooks_boot c e⟩)
    fun _ _ hi h hc => ⟨hc.chunkBooks hi h.1, hc.payloadBooks hi h.2⟩
  have hsame := hbooks.sent_eq_delivered hi hst
  have hframes := hpayload (by simp [hst])
  obtain ⟨-, hread, hsent, hseq⟩ := hbooks
  rw [hsame] at hframes hsent hseq
  rw [hreach.cfg_eq] at hsame hframes hread hsent hseq
  exact ⟨hsame, hframes, hseq, hsent, hread.trans hsent.symm⟩

end Sys2Proof.Machine

/-! SUPPORT. The reference file source (R85, R94): a file is its full chunks and a rest shorter than one, and that is what its
reads answer. -/

namespace Sys2Proof.Machine

/-! ### A file as full chunks and a rest -/

/-- The first `k` chunks of a file, from an offset on. -/
def chunksFrom (n : Nat) (file : List Byte) (pos k : Nat) : List (List Byte) :=
  (List.range k).map fun i => (file.drop (pos + i * n)).take n

/-- The `floor(S / n)` full chunks of a file (R94). -/
def fullChunks (n : Nat) (file : List Byte) : List (List Byte) :=
  chunksFrom n file 0 (file.length / n)

/-- What is left of a file after its full chunks. -/
def fileRest (n : Nat) (file : List Byte) : List Byte :=
  file.drop (file.length / n * n)

theorem chunksFrom_succ (n : Nat) (file : List Byte) (pos k : Nat) :
    chunksFrom n file pos (k + 1) = (file.drop pos).take n :: chunksFrom n file (pos + n) k := by
  have hpos (i : Nat) : pos + (i + 1) * n = pos + n + i * n := by ring
  simp [chunksFrom, List.range_succ_eq_map, hpos, Function.comp_def]

/-- The first `k` chunks hold the first `k * n` bytes, in order. -/
theorem flatten_chunksFrom (n : Nat) (file : List Byte) (pos k : Nat) :
    (chunksFrom n file pos k).flatten = (file.drop pos).take (k * n) := by
  induction k generalizing pos with
  | zero => simp [chunksFrom]
  | succ k ih => rw [chunksFrom_succ, List.flatten_cons, ih, Nat.succ_mul, Nat.add_comm (k * n),
      List.take_add, List.drop_drop]

section
variable {n : Nat} (file : List Byte)

@[simp] theorem length_fullChunks : (fullChunks n file).length = file.length / n := by
  simp [fullChunks, chunksFrom]

@[simp] theorem length_fileRest : (fileRest n file).length = file.length % n := by
  rw [fileRest, List.length_drop, Nat.mod_eq_sub_div_mul]

theorem length_of_mem_fullChunks {b : List Byte} (h : b ∈ fullChunks n file) : b.length = n := by
  obtain ⟨i, hi, rfl⟩ := List.mem_map.mp h
  have hfit : (i + 1) * n ≤ file.length :=
    (Nat.mul_le_mul_right n (List.mem_range.mp hi)).trans (Nat.div_mul_le_self _ _)
  rw [Nat.succ_mul] at hfit
  rw [List.length_take, List.length_drop]
  omega

theorem fullChunks_append_fileRest : (fullChunks n file).flatten ++ fileRest n file = file := by
  rw [fullChunks, flatten_chunksFrom, List.drop_zero, fileRest, List.take_append_drop]

/-- The chunks of a file are the full ones, and the rest if there is one (R94). -/
theorem fileChunks_eq (hn : 1 ≤ n) :
    fileChunks n file = fullChunks n file ++ (if file.length % n = 0 then [] else [fileRest n file]) := by
  have hrest : file.length % n < n := Nat.mod_lt _ hn
  have hdiv : file.length / n * n + file.length % n = file.length := Nat.div_add_mod' ..
  rw [fileChunks, fullChunks, chunksFrom]
  simp only [Nat.zero_add]
  split
  next h0 =>
    have hcount : (file.length + n - 1) / n = file.length / n :=
      Nat.div_eq_of_lt_le (by omega) (by rw [Nat.succ_mul]; omega)
    rw [hcount, List.append_nil]
  next h0 =>
    have hcount : (file.length + n - 1) / n = file.length / n + 1 :=
      Nat.div_eq_of_lt_le (by rw [Nat.succ_mul]; omega) (by rw [Nat.succ_mul, Nat.succ_mul]; omega)
    have hlast : (fileRest n file).take n = fileRest n file := List.take_of_length_le (by simpa using hrest.le)
    rw [hcount, List.range_succ, List.map_append, List.map_singleton]
    exact congrArg (fun b => _ ++ [b]) hlast

theorem length_fileChunks (hn : 1 ≤ n) : (fileChunks n file).length =
    if file.length % n = 0 then file.length / n else file.length / n + 1 := by
  rw [fileChunks_eq file hn]
  split <;> simp

theorem flatten_fileChunks (hn : 1 ≤ n) : (fileChunks n file).flatten = file := by
  rw [fileChunks_eq file hn, List.flatten_append]
  conv_rhs => rw [← fullChunks_append_fileRest (n := n) file]
  split
  next h0 =>
    have hempty : fileRest n file = [] := List.length_eq_zero_iff.mp (by simpa using h0)
    rw [hempty, List.flatten_nil]
  next => rw [List.flatten_singleton]

end

/-! ### The reads -/

/-- With `k * n + r` bytes left, `r < n`, the source answers `k` full chunks and then one of `r` bytes, if it is given the
reads for it. -/
theorem untilFinal_eq {n : Nat} (file : List Byte) {r : Nat} (hr : r < n) (k fuel pos : Nat) (hfuel : k < fuel)
    (hlen : file.length = pos + (k * n + r)) :
    RefSource.untilFinal n fuel { file := file, pos := pos } =
      (chunksFrom n file pos k).map (.chunk n) ++ [.chunk r (file.drop (pos + k * n))] := by
  obtain ⟨fuel, rfl⟩ := Nat.exists_eq_add_one_of_ne_zero (Nat.ne_zero_of_lt hfuel)
  induction k generalizing fuel pos with
  | zero =>
    have hcount : RefSource.count n { file := file, pos := pos } = r := by
      simp only [RefSource.count]
      omega
    have hall : (file.drop pos).take r = file.drop pos := List.take_of_length_le (by rw [List.length_drop]; omega)
    simp [RefSource.untilFinal, RefSource.readAnswer, hcount, hr, hall, chunksFrom]
  | succ k ih =>
    rw [Nat.succ_mul] at hlen
    have hcount : RefSource.count n { file := file, pos := pos } = n := by
      simp only [RefSource.count]
      omega
    obtain ⟨fuel, rfl⟩ := Nat.exists_eq_add_one_of_ne_zero (show fuel ≠ 0 by omega)
    have hnext := ih (pos + n) (by omega) fuel (by omega)
    have hpos : pos + (k + 1) * n = pos + n + k * n := by ring
    rw [RefSource.untilFinal, if_neg (by omega), RefSource.readAnswer, RefSource.afterRead, hcount, hnext,
      chunksFrom_succ, hpos]
    rfl

/-- A file is read as its full chunks and then its rest (R94). -/
theorem referenceReads_eq {n : Nat} (file : List Byte) (hn : 1 ≤ n) :
    referenceReads n file = (fullChunks n file).map (.chunk n) ++ [.chunk (file.length % n) (fileRest n file)] := by
  have hfuel : file.length / n < file.length + 1 := Nat.lt_succ_of_le (Nat.div_le_self _ _)
  rw [referenceReads, untilFinal_eq file (Nat.mod_lt _ hn) _ _ 0 hfuel (by rw [Nat.zero_add, Nat.div_add_mod']), Nat.zero_add]
  rfl

/-- Settles O56, from the file as its full chunks and its rest. -/
theorem referenceSourceReadsTheWholeFile : Obligations.ReferenceSourceReadsTheWholeFile := by
  intro n file hn
  refine ⟨?_, ?_, length_fileChunks file hn, flatten_fileChunks file hn⟩
  · rw [referenceReads_eq file hn]
    simp [fullChunks, chunksFrom, fileRest]
  · rw [referenceReads_eq file hn]
    simp

end Sys2Proof.Machine

/-! SUPPORT. The session against the reference file source and a friendly peer (R85, R93, R113), part by part as the
pseudo-operations of R79 take it: the handshake, the chunks of the file, the END frame and the close. -/

namespace Sys2Proof.Machine

/-! ### The operations of the Sequencer that call the source, where they go on -/

section
variable {s : State}

/-- R101, on a source that opens. -/
theorem exec_opRequest_of_ok {size : Nat} (hst : s.st = .idle) (hph : s.ph = .halt) (ho : openNow s = .ok size)
    (hs : size < 2 ^ s.cfg.cntW) : exec .opRequest s = .next { s with
      st := .await, ph := .wait, tx := Memory.ofBytes (startFrame s.cfg), totalSize := size, bytesRead := 0,
      bytesSent := 0, seq := 0, handleOpen := true, env := s.env.usedOpen,
      trace := s.trace ++ [.srcOpen s.cfg.sourceName (.ok size)] } := by
  change execOpRequest s = _
  rw [execOpRequest, if_pos ((State.isAt_iff ..).mpr ⟨hst, hph⟩), opOpen_eq_next.mpr (.inr ⟨size, ho, hs, rfl⟩)]
  rfl

/-- R104, on a chunk. -/
theorem exec_opFetch_of_chunk {b : List Byte} (hst : s.st = .xfer) (hph : s.ph = .fetch)
    (hr : readNow s.cfg.chunkCap s = .chunk b.length b) (h1 : 1 ≤ b.length) (hcap : b.length ≤ s.cfg.chunkCap) :
    exec .opFetch s = .next { s with
      st := .xfer, ph := .wait, last := lastFlag s.cfg b.length, tx := Memory.ofBytes (dataFrame s.cfg b),
      bytesRead := addW s.cfg s.bytesRead b.length, env := s.env.usedRead,
      trace := s.trace ++ [.srcRead s.cfg.chunkCap (.chunk b.length b)] } := by
  have hread := opRead_eq_next.mpr (.inr ⟨b.length, b, hr, hcap, rfl, rfl⟩)
  rw [if_neg (Nat.one_le_iff_ne_zero.mp h1)] at hread
  change execOpFetch s = _
  rw [execOpFetch, if_pos ((State.isAt_iff ..).mpr ⟨hst, hph⟩), hread]
  rfl

/-- R104, on `Empty`. -/
theorem exec_opFetch_of_empty (hst : s.st = .xfer) (hph : s.ph = .fetch)
    (hr : readNow s.cfg.chunkCap s = .chunk 0 []) : exec .opFetch s = .next { s with
      st := .compl, ph := .wait, last := true, tx := Memory.ofBytes (endFrame s.cfg),
      bytesRead := addW s.cfg s.bytesRead 0, env := s.env.usedRead,
      trace := s.trace ++ [.srcRead s.cfg.chunkCap (.chunk 0 [])] } := by
  change execOpFetch s = _
  rw [execOpFetch, if_pos ((State.isAt_iff ..).mpr ⟨hst, hph⟩),
    opRead_eq_next.mpr (.inr ⟨0, [], hr, Nat.zero_le _, rfl, rfl⟩)]
  rfl

end

/-! ### Parts of a session -/

/-- Two runs, one after the other. -/
theorem run_add {k l : Nat} {s t u : State} (h : Host.Core.run Sys2Proof.core k s = .next t)
    (h' : Host.Core.run Sys2Proof.core l t = .next u) : Host.Core.run Sys2Proof.core (k + l) s = .next u := by
  induction k generalizing s with
  | zero =>
    cases h
    rwa [Nat.zero_add]
  | succ k ih =>
    obtain ⟨v, hv, h⟩ := run_succ_eq_next.mp h
    rw [Nat.add_right_comm]
    exact run_succ_eq_next.mpr ⟨v, hv, ih h⟩

/-- `k` steps of a session that deliver these chunks and send these frames; `total_size` stands. -/
structure SessionPart (k : Nat) (s t : State) (chunks frames : List (List Byte)) : Prop where
  run : Host.Core.run Sys2Proof.core k s = .next t
  totalSize : t.totalSize = s.totalSize
  delivered : deliveredChunks t.trace = deliveredChunks s.trace ++ chunks
  frames : (busTrace t.trace).map Prod.fst = (busTrace s.trace).map Prod.fst ++ frames

theorem SessionPart.refl (s : State) : SessionPart 0 s s [] [] :=
  ⟨rfl, rfl, by simp, by simp⟩

theorem SessionPart.trans {k l : Nat} {s t u : State} {chunks chunks' frames frames' : List (List Byte)}
    (h : SessionPart k s t chunks frames) (h' : SessionPart l t u chunks' frames') :
    SessionPart (k + l) s u (chunks ++ chunks') (frames ++ frames') where
  run := run_add h.run h'.run
  totalSize := h'.totalSize.trans h.totalSize
  delivered := by rw [h'.delivered, h.delivered, List.append_assoc]
  frames := by rw [h'.frames, h.frames, List.append_assoc]

/-- One step with one interaction. -/
theorem SessionPart.of_step {s t : State} {e : Event} {chunks frames : List (List Byte)} (hstep : step s = .next t)
    (htotal : t.totalSize = s.totalSize) (htrace : t.trace = s.trace ++ [e]) (hchunks : deliveredChunks [e] = chunks)
    (hframes : (busTrace [e]).map Prod.fst = frames) : SessionPart 1 s t chunks frames where
  run := run_succ_eq_next.mpr ⟨t, hstep, rfl⟩
  totalSize := htotal
  delivered := by rw [htrace, deliveredChunks_append, hchunks]
  frames := by rw [htrace, busTrace_append, List.map_append, hframes]

/-! ### The friendly environment, once the session has started -/

/-- What is left of the friendly environment when its `REQUEST` and its open are used up. -/
def Env.serving (reads : List ReadAnswer) (replies : List (List Byte)) : Env :=
  { host := [], opens := [], ready := [true], reads := reads, bus := replies.map .ok, draws := 0 }

/-- The block under parameters `c` at a control point of its session, in front of these answers. -/
structure Serving (c : Config) (st : Session) (ph : Phase) (reads : List ReadAnswer) (replies : List (List Byte))
    (s : State) : Prop where
  inv : RegInv s
  cfg : s.cfg = c
  st : s.st = st
  ph : s.ph = ph
  env : s.env = Env.serving reads replies

section
variable {c : Config} {st : Session} {ph : Phase} {reads : List ReadAnswer} {replies : List (List Byte)} {s : State}

theorem Serving.of_step {st' : Session} {ph' : Phase} {reads' : List ReadAnswer} {replies' : List (List Byte)} {t : State}
    (h : Serving c st ph reads replies s) (hstep : step s = .next t) (hst : t.st = st') (hph : t.ph = ph')
    (henv : t.env = Env.serving reads' replies') : Serving c st' ph' reads' replies' t where
  inv := stepKeepsTheRegisterInvariant s t h.inv hstep
  cfg := (step_next_cfg hstep).trans h.cfg
  st := hst
  ph := hph
  env := henv

theorem Serving.noReset (h : Serving c st ph reads replies s) : (hostNow s).reset = false := by
  rw [hostNow, h.env]
  rfl

/-- A step is the operation of the control point (R100). -/
theorem Serving.step_eq {i : Instr} (h : Serving c st ph reads replies s) (hd : decodePoint st ph = .ok i)
    (hi : i ≠ .opRequest) : step s = exec i s.takeHost :=
  step_eq_exec h.inv.valid h.noReset (by rw [h.st, h.ph, hd]) fun he => absurd he hi

/-- No host event is left to use up. -/
theorem Serving.takeHost_env (h : Serving c st ph reads replies s) : s.takeHost.env = Env.serving reads replies := by
  rw [State.takeHost_env, h.env]
  rfl

theorem Serving.busNow_takeHost {rb : List Byte} (h : Serving c st ph reads (rb :: replies) s) :
    busNow s.takeHost = .ok rb := by
  rw [busNow, h.takeHost_env]
  rfl

theorem Serving.readNow_takeHost {a : ReadAnswer} (h : Serving c st ph (a :: reads) replies s) (n : Nat) :
    readNow n s.takeHost = a := by
  rw [readNow, h.takeHost_env]
  rfl

/-- The first sample of readiness is `true` (R102). -/
theorem Serving.poll (h : Serving c st .wait reads replies s) (hst : st = .await ∨ st = .xfer ∨ st = .compl) :
    ∃ t, SessionPart 1 s t [] [] ∧ Serving c st .issue reads replies t ∧ t.tx = s.tx ∧ t.last = s.last := by
  have hsample : sampleNow s = true := by
    rw [sampleNow, h.env]
    rfl
  have hstep := step_of_poll h.inv.valid h.noReset (h.st ▸ hst) h.ph
  rw [hsample, h.takeHost_env] at hstep
  exact ⟨_, .of_step hstep rfl rfl rfl rfl, h.of_step hstep h.st rfl rfl, rfl, rfl⟩

/-! ### The handshake -/

/-- One START transaction: the acknowledge byte decides between `XFER` and another one (R103). -/
theorem Serving.sendStart {rb : List Byte} {ack : Byte} (h : Serving c .await .wait reads (rb :: replies) s)
    (hl : rb.length = c.frameSize) (hack : rb[c.ackIndex]? = some ack) :
    ∃ t, SessionPart 2 s t [] [startFrame c] ∧
      Serving c (if ack = 0 then .await else .xfer) (if ack = 0 then .wait else .fetch) reads replies t := by
  obtain ⟨u, hpart, hu, -, -⟩ := h.poll (.inl rfl)
  obtain rfl := hu.cfg
  have htx := (hu.inv.frame (.inr hu.ph)).1 hu.st
  have hb : readTx u.takeHost = .next (startFrame u.cfg) := readTx_ofBytes htx (length_startFrame hu.inv.valid)
  have hstep := (step_at_await_issue hu.inv.valid hu.noReset hu.st hu.ph).trans
    (transactStart_of_ok hb hu.busNow_takeHost hl hack)
  rw [hu.takeHost_env] at hstep
  exact ⟨_, hpart.trans (.of_step hstep rfl rfl rfl rfl), hu.of_step hstep rfl rfl rfl⟩

/-- The NACKed STARTs and the acknowledged one (R113). -/
theorem Serving.handshake {nacks : List (List Byte)} {first : List Byte}
    (h : Serving c .await .wait reads (nacks ++ first :: replies) s)
    (hnacks : ∀ rb ∈ nacks, rb.length = c.frameSize ∧ rb[c.ackIndex]? = some 0) (hl : first.length = c.frameSize)
    (hack : first[c.ackIndex]? ≠ some 0) :
    ∃ t, SessionPart (2 * nacks.length + 2) s t [] (List.replicate (nacks.length + 1) (startFrame c)) ∧
      Serving c .xfer .fetch reads replies t := by
  induction nacks generalizing s with
  | nil =>
    have hidx : c.ackIndex < first.length := by
      obtain ⟨-, -, -, -, -, -, hidx⟩ := (Config.valid_iff _).mp h.inv.valid
      rwa [hl, ← h.cfg]
    have hfirst := List.getElem?_eq_getElem hidx
    have hne : first[c.ackIndex] ≠ 0 := fun h0 => hack (by rw [hfirst, h0])
    have hstart := h.sendStart hl hfirst
    rw [if_neg hne, if_neg hne] at hstart
    exact hstart
  | cons rb nacks ih =>
    obtain ⟨⟨hlen, hnack⟩, hrest⟩ := List.forall_mem_cons.mp hnacks
    obtain ⟨u, hpart, hu⟩ := h.sendStart hlen hnack
    obtain ⟨t, hpart', ht⟩ := ih hu hrest
    have hk : 2 * (rb :: nacks).length + 2 = 2 + (2 * nacks.length + 2) := by
      rw [List.length_cons]
      ring
    rw [hk]
    exact ⟨t, hpart.trans hpart', ht⟩

/-! ### The chunks -/

/-- `SEND_CHUNK` (R79): the chunk is read, its frame built and sent, and whether it is short decides what comes next. -/
theorem Serving.sendChunk {b rb : List Byte} (h : Serving c .xfer .fetch (.chunk b.length b :: reads) (rb :: replies) s)
    (h1 : 1 ≤ b.length) (hcap : b.length ≤ c.chunkCap) (hl : rb.length = c.frameSize) :
    ∃ t, SessionPart 3 s t [b] [dataFrame c b] ∧
      Serving c (if lastFlag c b.length then .compl else .xfer) (if lastFlag c b.length then .wait else .fetch)
        reads replies t := by
  obtain rfl := h.cfg
  have hok := chunkOk_of_valid h.inv.valid h1 hcap
  have hfetch := (h.step_eq rfl nofun).trans
    (exec_opFetch_of_chunk (s := s.takeHost) h.st h.ph (h.readNow_takeHost _) h1 hcap)
  rw [h.takeHost_env] at hfetch
  have hread : deliveredChunks [.srcRead s.cfg.chunkCap (.chunk b.length b)] = [b] := by
    rw [deliveredChunks_chunk, if_neg (Nat.one_le_iff_ne_zero.mp h1)]
  have hpart := SessionPart.of_step hfetch rfl rfl hread rfl
  obtain ⟨u, hpoll, hu, htx, hlast⟩ :=
    (h.of_step (reads' := reads) (replies' := rb :: replies) hfetch rfl rfl rfl).poll (.inr (.inl rfl))
  have hb : readTx u.takeHost = .next (dataFrame s.cfg b) :=
    readTx_ofBytes htx ((length_dataFrame hok).trans (congrArg _ hu.cfg.symm))
  have hstep := (step_at_xfer_issue hu.inv.valid hu.noReset hu.st hu.ph).trans
    (transactData_of_ok hb hu.busNow_takeHost (hl.trans (congrArg _ hu.cfg.symm)))
  rw [hu.takeHost_env, State.takeHost_last, hlast] at hstep
  exact ⟨_, (hpart.trans hpoll).trans (.of_step hstep rfl rfl rfl rfl), hu.of_step hstep rfl rfl rfl⟩

/-- After each full chunk another one is asked for (R105). -/
theorem Serving.sendFullChunks {full : List (List Byte)}
    (h : Serving c .xfer .fetch (full.map (.chunk c.chunkCap) ++ reads) replies s)
    (hfull : ∀ b ∈ full, b.length = c.chunkCap) (hreplies : ∀ rb ∈ replies, rb.length = c.frameSize)
    (hcount : full.length ≤ replies.length) :
    ∃ t, SessionPart (3 * full.length) s t full (full.map (dataFrame c)) ∧
      Serving c .xfer .fetch reads (replies.drop full.length) t := by
  induction full generalizing s replies with
  | nil => exact ⟨s, .refl s, h⟩
  | cons b full ih =>
    obtain ⟨hb, hrest⟩ := List.forall_mem_cons.mp hfull
    match replies with
    | rb :: replies =>
      obtain ⟨hl, hreplies⟩ := List.forall_mem_cons.mp hreplies
      have hcap : 1 ≤ c.chunkCap := h.cfg ▸ ((Config.valid_iff _).mp h.inv.valid).1
      rw [List.map_cons, List.cons_append, ← hb] at h
      obtain ⟨u, hpart, hu⟩ := h.sendChunk (by omega) hb.le hl
      have hfull : lastFlag c b.length = false := by simp [lastFlag, hb]
      rw [hfull, hb] at hu
      obtain ⟨t, hpart', ht⟩ := ih hu hrest hreplies (by simpa using hcount)
      rw [List.length_cons, Nat.mul_succ, Nat.add_comm]
      exact ⟨t, hpart.trans hpart', ht⟩

/-- The final read: a short chunk is sent, and `Empty` is not (R92, R104). -/
theorem Serving.sendRest {b : List Byte} (h : Serving c .xfer .fetch (.chunk b.length b :: reads) replies s)
    (hshort : b.length < c.chunkCap) (hreplies : ∀ rb ∈ replies, rb.length = c.frameSize)
    {rest : List (List Byte)} (hrest : rest = if b.length = 0 then [] else [b]) (hcount : rest.length ≤ replies.length) :
    ∃ t, SessionPart (3 * rest.length + if b.length = 0 then 1 else 0) s t rest (rest.map (dataFrame c)) ∧
      Serving c .compl .wait reads (replies.drop rest.length) t := by
  subst hrest
  by_cases h0 : b.length = 0
  · obtain rfl := List.length_eq_zero_iff.mp h0
    have hstep := (h.step_eq rfl nofun).trans
      (exec_opFetch_of_empty (s := s.takeHost) h.st h.ph (h.readNow_takeHost _))
    rw [h.takeHost_env] at hstep
    exact ⟨_, .of_step hstep rfl rfl rfl rfl, h.of_step hstep rfl rfl rfl⟩
  · rw [if_neg h0] at hcount ⊢
    match replies with
    | rb :: replies =>
      obtain ⟨hl, -⟩ := List.forall_mem_cons.mp hreplies
      have hlast : lastFlag c b.length = true := decide_eq_true hshort
      simpa [hlast, h0] using h.sendChunk (Nat.one_le_iff_ne_zero.mpr h0) hshort.le hl

/-- All chunks of a file, read from its start (R94). -/
theorem Serving.sendFile {file : List Byte} (h : Serving c .xfer .fetch (referenceReads c.chunkCap file) replies s)
    (hreplies : ∀ rb ∈ replies, rb.length = c.frameSize)
    (hcount : (fileChunks c.chunkCap file).length ≤ replies.length) :
    ∃ t, SessionPart
        (3 * (fileChunks c.chunkCap file).length + if file.length % c.chunkCap = 0 then 1 else 0) s t
        (fileChunks c.chunkCap file) ((fileChunks c.chunkCap file).map (dataFrame c)) ∧
      Serving c .compl .wait [] (replies.drop (fileChunks c.chunkCap file).length) t := by
  have hcap : 1 ≤ c.chunkCap := h.cfg ▸ ((Config.valid_iff _).mp h.inv.valid).1
  have hrest := length_fileRest (n := c.chunkCap) file
  rw [referenceReads_eq file hcap, ← hrest] at h
  rw [fileChunks_eq file hcap, ← hrest] at hcount ⊢
  rw [List.length_append] at hcount
  obtain ⟨u, hpart, hu⟩ := h.sendFullChunks (fun b => length_of_mem_fullChunks file) hreplies
    ((Nat.le_add_right _ _).trans hcount)
  obtain ⟨t, hpart', ht⟩ := hu.sendRest (hrest ▸ Nat.mod_lt _ hcap) (fun rb hrb => hreplies rb (List.mem_of_mem_drop hrb))
    rfl (by rw [List.length_drop]; omega)
  rw [List.length_append, List.map_append, Nat.mul_add, Nat.add_assoc, ← List.drop_drop]
  exact ⟨t, hpart.trans hpart', ht⟩

/-! ### The end -/

/-- The END frame is sent (R106). -/
theorem Serving.sendEnd {rb : List Byte} (h : Serving c .compl .wait reads (rb :: replies) s)
    (hl : rb.length = c.frameSize) :
    ∃ t, SessionPart 2 s t [] [endFrame c] ∧ Serving c .completed .close reads replies t := by
  obtain ⟨u, hpart, hu, -, -⟩ := h.poll (.inr (.inr rfl))
  obtain rfl := hu.cfg
  obtain ⟨htx, -⟩ := (hu.inv.frame (.inr hu.ph)).2.2 hu.st
  have hb : readTx u.takeHost = .next (endFrame u.cfg) := readTx_ofBytes htx (length_endFrame hu.inv.valid)
  have hstep := (step_at_compl_issue hu.inv.valid hu.noReset hu.st hu.ph).trans (transactEnd_of_ok hb hu.busNow_takeHost hl)
  rw [hu.takeHost_env] at hstep
  exact ⟨_, hpart.trans (.of_step hstep rfl rfl rfl rfl), hu.of_step hstep rfl rfl rfl⟩

/-- The handle, held since the open, is closed (R107). -/
theorem Serving.close (h : Serving c .completed .close reads replies s) :
    ∃ t, SessionPart 1 s t [] [] ∧ Serving c .completed .halt reads replies t := by
  have hheld : s.handleOpen = true := h.inv.handle.mpr (by simp [h.ph])
  obtain ⟨t, hexec⟩ : ∃ t, exec (.opClose .completed) s.takeHost = .next t :=
    ⟨_, if_pos (by simp [Instr.wellFormed, h.st, h.ph])⟩
  have hstep := (h.step_eq rfl nofun).trans hexec
  obtain ⟨-, -, -, rfl⟩ := execOpClose_next hexec
  exact ⟨_, .of_step (e := .srcClose) hstep rfl (by simp [hheld]) rfl rfl, h.of_step hstep h.st rfl h.takeHost_env⟩

end

/-- The first step: the source opens, and the START frame is built (R101). -/
theorem serving_of_request {c : Config} {file : List Byte} (replies : List (List Byte)) (hv : c.valid = true)
    (hsize : file.length < 2 ^ c.cntW) :
    ∃ t, step (State.boot c (friendlyEnv c file replies)) = .next t ∧
      Serving c .await .wait (referenceReads c.chunkCap file) replies t ∧ t.totalSize = file.length ∧
      t.trace = [.srcOpen c.sourceName (.ok file.length)] := by
  have hstep := (step_eq_exec (s := State.boot c (friendlyEnv c file replies)) hv rfl rfl fun _ => rfl).trans
    (exec_opRequest_of_ok rfl rfl rfl hsize)
  exact ⟨_, hstep, ⟨stepKeepsTheRegisterInvariant _ _ (regInv_boot _ hv) hstep, rfl, rfl, rfl, rfl⟩, rfl, rfl⟩

theorem totalLength_eq_length_flatten (chunks : List (List Byte)) : totalLength chunks = chunks.flatten.length :=
  List.length_flatten.symm

/-- Settles O57: the parts of the session one after the other; the counters are those of a completed run (R116). -/
theorem referenceSessionCompletes : Obligations.ReferenceSessionCompletes := by
  intro c file nacks first others hv hsize hnacks hfirst hack hothers hcount
  obtain ⟨s, hstep, hs, htotal, htrace⟩ := serving_of_request (nacks ++ first :: others) hv hsize
  obtain ⟨u, hshake, hu⟩ := hs.handshake hnacks hfirst hack
  obtain ⟨x, hfile, hx⟩ := hu.sendFile hothers (by omega)
  obtain ⟨rb, replies, hrb⟩ := List.exists_cons_of_length_pos
    (show 0 < (others.drop (fileChunks c.chunkCap file).length).length by rw [List.length_drop]; omega)
  rw [hrb] at hx
  obtain ⟨w, hend, hw⟩ := hx.sendEnd (hothers rb (List.mem_of_mem_drop (hrb ▸ List.mem_cons_self)))
  obtain ⟨t, hclose, ht⟩ := hw.close
  have hpart := ((hshake.trans hfile).trans hend).trans hclose
  have hrun := run_succ_eq_next.mpr ⟨s, hstep, hpart.run⟩
  have hdeliv : deliveredChunks t.trace = fileChunks c.chunkCap file := by
    rw [hpart.delivered, htrace]
    simp
  have hlen : totalLength (fileChunks c.chunkCap file) = file.length := by
    rw [totalLength_eq_length_flatten, flatten_fileChunks file ((Config.valid_iff c).mp hv).1]
  obtain ⟨-, -, -, hsent, hread⟩ := completedSessionRoundTrips c _ _ t ⟨hv, hrun⟩ ht.st
  rw [hdeliv, hlen, Nat.mod_eq_of_lt hsize] at hsent
  have htotal : t.totalSize = file.length := hpart.totalSize.trans htotal
  have hmis : t.mismatch = false := by simp [ht.inv.mismatch, mismatchFlag, hsent, htotal]
  refine ⟨t, ?_, ht.st, ht.ph, ht.inv.err_eq_none (by simp [ht.st]), hmis, ht.inv.handleOpen_of_halt ht.ph, htotal,
    hsent, hread.trans hsent, ?_⟩
  · rw [← hrun]
    congr 1
    ring
  · rw [hpart.frames, htrace]
    simp

end Sys2Proof.Machine

/-! SUPPORT. The shape of the bus trace (R112): what it says in each session state, one transaction more, and the step that
keeps it. -/

namespace Sys2Proof.Machine

/-! ### The shape in each session state -/

section
variable {s : State}

theorem busShape_of_idle (hst : s.st = .idle) : BusShape s ↔ busTrace s.trace = [] := by
  simp [BusShape, hst]

theorem busShape_of_await (hst : s.st = .await) : BusShape s ↔ Handshaking s.cfg (busTrace s.trace) := by
  simp [BusShape, hst]

theorem busShape_of_sending (hst : s.st = .xfer ∨ s.st = .compl) : BusShape s ↔ Sending s.cfg (busTrace s.trace) := by
  rcases hst with hst | hst <;> simp [BusShape, hst]

theorem busShape_of_completed (hst : s.st = .completed) : BusShape s ↔ Finished s.cfg (busTrace s.trace) := by
  simp [BusShape, hst]

theorem busShape_of_notFound (hst : s.st = .failed) (herr : s.err = .notFound) : BusShape s ↔ busTrace s.trace = [] := by
  simp [BusShape, hst, herr]

theorem busShape_of_readError (hst : s.st = .failed) (herr : s.err = .readError) :
    BusShape s ↔ Sending s.cfg (busTrace s.trace) := by
  simp [BusShape, hst, herr]

theorem busShape_of_busFault (hst : s.st = .failed) (herr : s.err = .busFault) :
    BusShape s ↔ BusFaulted s.cfg (busTrace s.trace) := by
  simp [BusShape, hst, herr]

end

/-- The shape reads the parameters, the session state, the cause and the bus trace, and nothing else. -/
theorem BusShape.of_same {s t : State} (h : BusShape s) (hcfg : t.cfg = s.cfg) (hst : t.st = s.st) (herr : t.err = s.err)
    (hbus : busTrace t.trace = busTrace s.trace) : BusShape t := by
  unfold BusShape at h ⊢
  rwa [hcfg, hst, herr, hbus]

/-- Between `XFER` and `COMPL` the shape stays the same. -/
theorem BusShape.of_sending {s t : State} (h : BusShape s) (hs : s.st = .xfer ∨ s.st = .compl)
    (ht : t.st = .xfer ∨ t.st = .compl) (hcfg : t.cfg = s.cfg) (hbus : busTrace t.trace = busTrace s.trace) :
    BusShape t := by
  rw [busShape_of_sending ht, hcfg, hbus]
  exact (busShape_of_sending hs).mp h

/-! ### One transaction more -/

section
variable {c : Config} {bt : List (List Byte × BusAnswer)} {x : List Byte × BusAnswer}

theorem Handshaking.append_nack (h : Handshaking c bt) (hx : IsNack c x) : Handshaking c (bt ++ [x]) :=
  List.forall_mem_append.mpr ⟨h, List.forall_mem_singleton.mpr hx⟩

theorem Handshaking.append_ack (h : Handshaking c bt) (hx : IsAck c x) : Sending c (bt ++ [x]) :=
  ⟨bt, x, [], rfl, h, hx, List.forall_mem_nil _⟩

theorem Sending.append_data (h : Sending c bt) (hx : IsDataOk c x) : Sending c (bt ++ [x]) := by
  obtain ⟨nacks, ack, datas, rfl, hnacks, hack, hdatas⟩ := h
  exact ⟨nacks, ack, datas ++ [x], by simp, hnacks, hack,
    List.forall_mem_append.mpr ⟨hdatas, List.forall_mem_singleton.mpr hx⟩⟩

end

/-- A DATA frame that was sent goes on with the shape of `XFER` and `COMPL` (R105). -/
theorem BusShape.append_data {s t : State} {bytes rb : List Byte} {n : Nat} (h : BusShape s) (hi : RegInv s)
    (hst : s.st = .xfer) (hph : s.ph = .issue) (hb : readTx s = .next bytes) (ht : t.st = .xfer ∨ t.st = .compl)
    (hcfg : t.cfg = s.cfg) (htrace : t.trace = s.trace ++ [.transact bytes n (.ok rb)]) : BusShape t := by
  obtain ⟨b, hok, rfl⟩ := hi.sends_data hst hph hb
  rw [busShape_of_sending ht, hcfg, htrace, busTrace_append]
  exact ((busShape_of_sending (.inl hst)).mp h).append_data ⟨b, rb, rfl, hok⟩

/-- A `BusFault` at `ISSUE` ends what was sent of the shape with the frame of the session state (R128). -/
theorem BusShape.busFaulted {s : State} {bytes : List Byte} (h : BusShape s) (hi : RegInv s)
    (hst : s.st = .await ∨ s.st = .xfer ∨ s.st = .compl) (hph : s.ph = .issue) (hb : readTx s = .next bytes) :
    BusFaulted s.cfg (busTrace s.trace ++ [(bytes, .fault)]) := by
  refine ⟨busTrace s.trace, bytes, rfl, ?_⟩
  rcases hst with hst | hst | hst
  · exact .inl ⟨(busShape_of_await hst).mp h, hi.sends_start hst hph hb⟩
  · exact .inr ⟨(busShape_of_sending (.inl hst)).mp h, .inr (hi.sends_data hst hph hb)⟩
  · exact .inr ⟨(busShape_of_sending (.inr hst)).mp h, .inl (hi.sends_end hst hph hb)⟩

/-! ### The step -/

theorem busShape_boot (c : Config) (e : Env) : BusShape (State.boot c e) :=
  rfl

/-- Every case of a step keeps the shape. -/
theorem StepCase.busShape {s t : State} (hc : StepCase s t) (hi : RegInv s) (h : BusShape s) : BusShape t := by
  cases hc with
  | reset => exact busShape_boot _ _
  | waiting | halted => exact h
  | requestNotFound _ hst =>
    rw [busShape_of_notFound (State.fail_st _ _) (State.fail_err _ _), State.fail_trace, busTrace_append]
    simpa using (busShape_of_idle hst).mp h
  | requestOk _ hst =>
    rw [busShape_of_await rfl, busTrace_append, (busShape_of_idle hst).mp h]
    exact List.forall_mem_nil _
  | poll => exact h.of_same rfl rfl rfl (by simp [busTrace_append])
  | busFault _ hst hph bytes hb =>
    rw [busShape_of_busFault (State.fail_st _ _) (State.fail_err _ _), State.fail_cfg, State.fail_trace, busTrace_append]
    exact h.busFaulted hi hst hph hb
  | startAck _ hst hph bytes rb ack hb _ _ hack hne =>
    obtain rfl := hi.sends_start hst hph hb
    rw [busShape_of_sending (.inl rfl), busTrace_append]
    exact ((busShape_of_await hst).mp h).append_ack ⟨rb, ack, rfl, hack, hne⟩
  | startNack _ hst hph bytes rb hb _ _ hack =>
    obtain rfl := hi.sends_start hst hph hb
    rw [busShape_of_await rfl, busTrace_append]
    exact ((busShape_of_await hst).mp h).append_nack ⟨rb, rfl, hack⟩
  | fetchError _ hst =>
    rw [busShape_of_readError (State.fail_st _ _) (State.fail_err _ _), State.fail_cfg, State.fail_trace, busTrace_append]
    simpa using (busShape_of_sending (.inl hst)).mp h
  | fetchEmpty _ hst | fetchData _ hst => exact h.of_sending (.inl hst) (by simp) rfl (by simp [busTrace_append])
  | dataLast _ hst hph bytes rb hb => exact h.append_data hi hst hph hb (.inr rfl) rfl rfl
  | dataMore _ hst hph bytes rb hb => exact h.append_data hi hst hph hb (.inl rfl) rfl rfl
  | endOk _ hst hph bytes rb hb =>
    obtain rfl := hi.sends_end hst hph hb
    rw [busShape_of_completed rfl, busTrace_append]
    exact ⟨busTrace s.trace, rb, rfl, (busShape_of_sending (.inr hst)).mp h⟩
  | close =>
    refine h.of_same rfl rfl rfl ?_
    cases hheld : s.handleOpen with
    | false => simp
    | true => simp [busTrace_append]

/-- Settles O46, from the cases of a step. -/
theorem stepKeepsTheBusTraceShape : Obligations.StepKeepsTheBusTraceShape := by
  intro s t hi h hstep
  exact (step_next_cases hstep).2.busShape hi h

end Sys2Proof.Machine

/-! SUPPORT. The operations of the Sequencer with their whole next state (R101 to R107), and a `REQUEST` the block does not wait
for (R110). -/

namespace Sys2Proof.Machine

/-! ### A REQUEST elsewhere -/

/-- Away from `(IDLE, HALT)` a step reads of the host's entry only whether it gives `RESET` (R110, R134). -/
theorem step_eq_of_takeHost {s t : State} (h : s.takeHost = t.takeHost) (hreset : (hostNow s).reset = (hostNow t).reset)
    (hpoint : ¬(t.st = .idle ∧ t.ph = .halt)) : step s = step t := by
  have hcfg : s.cfg = t.cfg := (congrArg State.cfg h :)
  have hst : s.st = t.st := (congrArg State.st h :)
  have hph : s.ph = t.ph := (congrArg State.ph h :)
  cases hv : t.cfg.valid with
  | false => rw [step_of_invalid hv, step_of_invalid (hcfg ▸ hv)]
  | true =>
    have hv' : s.cfg.valid = true := hcfg ▸ hv
    cases hr : (hostNow t).reset with
    | true => rw [step_of_reset hv hr, step_of_reset hv' (hreset.trans hr), hcfg, h]
    | false =>
      have hr' := hreset.trans hr
      have hpoint' : decodePoint s.st s.ph = decodePoint t.st t.ph := by rw [hst, hph]
      by_cases hreach : (t.st, t.ph) ∈ reachablePoints
      · rcases decodePoint_of_reachable hreach with ⟨i, hd⟩ | hd
        · have hi : i ≠ .opRequest := by
            rintro rfl
            exact hpoint (by simpa using decodePoint_eq_ok hd)
          rw [step_eq_exec hv hr hd fun he => absurd he hi,
            step_eq_exec hv' hr' (hpoint'.trans hd) fun he => absurd he hi, h]
        · rw [step_of_noStep hv hr hd, step_of_noStep hv' hr' (hpoint'.trans hd), h]
      · have hd := decodePoint_of_unreachable hreach
        rw [step_of_unreachable hv hr hd, step_of_unreachable hv' hr' (hpoint'.trans hd)]

/-- Settles O12: the two states differ in the host's `REQUEST` alone. -/
theorem requestElsewhereIsIgnored : Obligations.RequestElsewhereIsIgnored := by
  intro s rest reset hpoint
  exact step_eq_of_takeHost rfl rfl hpoint

/-! ### The operations -/

/-- `Fail(code)` in full (R135). -/
theorem State.fail_eq (s : State) (code : ErrCode) :
    s.fail code = { s with err := code, st := .failed, ph := if s.handleOpen then .close else .halt } := by
  unfold State.fail
  split <;> rfl

/-- R101, on `NotFound`. -/
theorem exec_opRequest_of_notFound {s : State} (hst : s.st = .idle) (hph : s.ph = .halt) (ho : openNow s = .notFound) :
    exec .opRequest s = .next (({ s with
      env := s.env.usedOpen, trace := s.trace ++ [.srcOpen s.cfg.sourceName .notFound] } : State).fail .notFound) := by
  change execOpRequest s = _
  rw [execOpRequest, if_pos ((State.isAt_iff ..).mpr ⟨hst, hph⟩), opOpen_eq_next.mpr (.inl ⟨ho, rfl⟩)]
  rfl

/-- R104, on `ReadError`. -/
theorem exec_opFetch_of_readError {s : State} (hst : s.st = .xfer) (hph : s.ph = .fetch)
    (hr : readNow s.cfg.chunkCap s = .readError) : exec .opFetch s = .next (({ s with
      env := s.env.usedRead, trace := s.trace ++ [.srcRead s.cfg.chunkCap .readError] } : State).fail .readError) := by
  change execOpFetch s = _
  rw [execOpFetch, if_pos ((State.isAt_iff ..).mpr ⟨hst, hph⟩), opRead_eq_next.mpr (.inl ⟨hr, rfl⟩)]
  rfl

/-- Settles O22: the two answers of the source, and the guard of the operation elsewhere. -/
theorem requestStartsASession : Obligations.RequestStartsASession := by
  intro s
  refine ⟨fun hst hph size ho hs => exec_opRequest_of_ok hst hph ho hs, fun hst hph ho => ?_,
    (operationsAwayFromTheirPointAreRefused s).1⟩
  rw [exec_opRequest_of_notFound hst hph ho, State.fail_eq]

/-- Settles O24: at its control point the operation records one sample, which decides the phase. -/
theorem pollWritesOnlyThePhase : Obligations.PollWritesOnlyThePhase := by
  intro s st hwf hst hph
  subst hst
  exact if_pos (by simp [Instr.wellFormed, hwf, hph])

/-- Settles O27: the three answers of the source. -/
theorem fetchFormatsTheChunkItReads : Obligations.FetchFormatsTheChunkItReads := by
  intro s hst hph
  refine ⟨fun b hr h1 hcap => ?_, fun hr => exec_opFetch_of_empty hst hph hr, fun hr => ?_⟩
  · have hchunk := exec_opFetch_of_chunk hst hph hr h1 hcap
    rw [← hst] at hchunk
    exact hchunk
  · rw [exec_opFetch_of_readError hst hph hr, State.fail_eq]

/-- Settles O28: the frame in `tx` carries the length of its chunk. -/
theorem dataTransactionAdvancesTheCounters : Obligations.DataTransactionAdvancesTheCounters := by
  intro s b rb hv hok hst hph htx hn hl
  rw [exec_opXactData_of_isAt hph hst, transactData_of_ok (readTx_ofBytes htx (length_dataFrame hok)) hn hl,
    lengthField_dataFrame (length_le_of_chunkOk hv hok)]
  rfl

/-- Settles O29: the transaction that returns `BusOk`. -/
theorem endTransactionCompletesTheSession : Obligations.EndTransactionCompletesTheSession := by
  intro s bytes rb hst hph hb hn hl
  exact (exec_opXactEnd_of_isAt hph hst).trans (transactEnd_of_ok hb hn hl)

/-- Settles O30: at its control point the operation goes on, and then this is what it does. -/
theorem closeReleasesTheHandleAndFlagsMismatch : Obligations.CloseReleasesTheHandleAndFlagsMismatch := by
  intro s st hwf hst hph
  obtain ⟨t, hexec⟩ : ∃ t, exec (.opClose st) s = .next t := ⟨_, if_pos (by simp [Instr.wellFormed, hwf, hst, hph])⟩
  obtain ⟨-, -, -, rfl⟩ := execOpClose_next hexec
  exact hexec

end Sys2Proof.Machine

/-! SUPPORT. What every run keeps of the bus trace (R72, R108, R112) and of the chunk a faulted DATA frame carried (R116). -/

namespace Sys2Proof.Machine

/-! ### Every transaction sends a legal frame -/

/-- Every transaction of the history sends a frame that `classify` accepts, announced as `8 * F` bits (R15, R72). -/
def SendsFrames (s : State) : Prop :=
  ∀ tx n a, .transact tx n a ∈ s.trace → n = 8 * s.cfg.frameSize ∧ ∃ i, decodeFrame s.cfg tx = .ok i

/-- One event more, if it is no transaction or sends a legal frame. -/
theorem SendsFrames.append {s t : State} {e : Event} (h : SendsFrames s) (hcfg : t.cfg = s.cfg)
    (htrace : t.trace = s.trace ++ [e])
    (he : ∀ tx n a, e = .transact tx n a → n = 8 * s.cfg.frameSize ∧ ∃ i, decodeFrame s.cfg tx = .ok i) :
    SendsFrames t := by
  intro tx n a hmem
  rw [htrace] at hmem
  rw [hcfg]
  rcases List.mem_append.mp hmem with hmem | hmem
  · exact h tx n a hmem
  · exact he tx n a (List.mem_singleton.mp hmem).symm

/-- At `ISSUE` the frame sent is the one of the session state, and `classify` accepts it (R109). -/
theorem RegInv.sends_legalFrame {s : State} {bytes : List Byte} (h : RegInv s)
    (hst : s.st = .await ∨ s.st = .xfer ∨ s.st = .compl) (hph : s.ph = .issue) (hb : readTx s = .next bytes) :
    ∃ i, decodeFrame s.cfg bytes = .ok i := by
  rcases hst with hst | hst | hst
  · obtain rfl := h.sends_start hst hph hb
    exact ⟨_, decodeFrame_startFrame h.valid⟩
  · obtain ⟨b, hok, rfl⟩ := h.sends_data hst hph hb
    exact ⟨_, decodeFrame_dataFrame h.valid hok⟩
  · obtain rfl := h.sends_end hst hph hb
    exact ⟨_, decodeFrame_endFrame h.valid⟩

theorem SendsFrames.append_transact {s t : State} {bytes : List Byte} {a : BusAnswer} (h : SendsFrames s) (hi : RegInv s)
    (hst : s.st = .await ∨ s.st = .xfer ∨ s.st = .compl) (hph : s.ph = .issue) (hb : readTx s = .next bytes)
    (hcfg : t.cfg = s.cfg) (htrace : t.trace = s.trace ++ [.transact bytes s.cfg.busBits a]) : SendsFrames t := by
  refine h.append hcfg htrace fun tx n a' he => ?_
  cases he
  exact ⟨rfl, hi.sends_legalFrame hst hph hb⟩

theorem sendsFrames_boot (c : Config) (e : Env) : SendsFrames (State.boot c e) :=
  fun _ _ _ hmem => absurd hmem List.not_mem_nil

/-- Every case of a step keeps it. -/
theorem StepCase.sendsFrames {s t : State} (hc : StepCase s t) (hi : RegInv s) (h : SendsFrames s) : SendsFrames t := by
  cases hc with
  | reset => exact sendsFrames_boot _ _
  | waiting | halted => exact h
  | requestNotFound | fetchError => exact h.append (State.fail_cfg _ _) (State.fail_trace _ _) nofun
  | requestOk | poll | fetchEmpty | fetchData => exact h.append rfl rfl nofun
  | busFault _ hst hph bytes hb => exact h.append_transact hi hst hph hb (State.fail_cfg _ _) (State.fail_trace _ _)
  | startAck _ hst hph bytes rb _ hb | startNack _ hst hph bytes rb hb =>
    exact h.append_transact hi (.inl hst) hph hb rfl rfl
  | dataLast _ hst hph bytes rb hb | dataMore _ hst hph bytes rb hb =>
    exact h.append_transact hi (.inr (.inl hst)) hph hb rfl rfl
  | endOk _ hst hph bytes rb hb => exact h.append_transact hi (.inr (.inr hst)) hph hb rfl rfl
  | close =>
    cases hheld : s.handleOpen with
    | false => simpa [SendsFrames] using h
    | true => exact h.append (e := .srcClose) rfl (by simp) nofun

/-- Settles O50: the gating and the legal frames, along the run. -/
theorem everyTransactionIsGatedAndSendsAFrame : Obligations.EveryTransactionIsGatedAndSendsAFrame := by
  intro c e k t hreach pre tx n a post hsplit
  obtain ⟨-, hgated, hframes⟩ := hreach.of_stepCase (P := fun s => ReadinessGated s ∧ SendsFrames s)
    (fun c e => ⟨readinessGated_boot c e, sendsFrames_boot c e⟩)
    fun _ _ hi h hc => ⟨hc.readinessGated h.1, hc.sendsFrames hi h.2⟩
  obtain ⟨hbits, hlegal⟩ := hframes tx n a (by simp [hsplit])
  rw [hreach.cfg_eq] at hbits hlegal
  exact ⟨hgated.1 pre tx n a post hsplit, hbits, hlegal⟩

/-! ### The trace of a session that ended -/

/-- Before the END frame none is on the bus. -/
theorem Sending.ne_endFrame {c : Config} {bt : List (List Byte × BusAnswer)} (h : Sending c bt) (hv : c.valid = true) :
    ∀ x ∈ bt, x.1 ≠ endFrame c := by
  obtain ⟨nacks, ack, datas, rfl, hnacks, hack, hdatas⟩ := h
  intro x hx
  rcases List.mem_append.mp hx with hx | hx
  · obtain ⟨rb, rfl, -⟩ := hnacks x hx
    exact startFrame_ne_endFrame hv
  · rcases List.mem_cons.mp hx with rfl | hx
    · obtain ⟨rb, a, rfl, -⟩ := hack
      exact startFrame_ne_endFrame hv
    · obtain ⟨b, rb, rfl, -⟩ := hdatas x hx
      exact (endFrame_ne_dataFrame hv b).symm

/-- Settles O51: the shape of the bus trace along the run, in the two states a session ends in. -/
theorem sessionTraceHasTheSpecsShape : Obligations.SessionTraceHasTheSpecsShape := by
  intro c e k t hreach
  obtain ⟨hi, hshape⟩ := hreach.of_stepCase busShape_boot fun _ _ hi h hc => hc.busShape hi h
  obtain rfl := hreach.cfg_eq
  refine ⟨fun hst => ?_, fun hst => ⟨hi.cause.1.mpr hst, fun herr => ?_, fun herr => ?_, fun herr => ?_⟩⟩
  · obtain ⟨pre, fin, hbt, nacks, ack, datas, rfl, hnacks, hack, hdatas⟩ := (busShape_of_completed hst).mp hshape
    exact ⟨nacks, ack, datas, fin, by simp [hbt], hnacks, hack, hdatas⟩
  · exact (busShape_of_notFound hst herr).mp hshape
  · exact (busShape_of_busFault hst herr).mp hshape
  · have hsending := (busShape_of_readError hst herr).mp hshape
    exact ⟨hsending, hsending.ne_endFrame hi.valid⟩

/-! ### A faulted DATA frame -/

/-- After a `BUS_FAULT` on the DATA frame of a chunk, that chunk is the pending one. -/
theorem Pending.eq_of_faulted {s : State} {p : List (List Byte)} {b : List Byte} (h : Pending s p) (hv : s.cfg.valid = true)
    (hst : s.st = .failed) (herr : s.err = .busFault) (hok : chunkOk s.cfg b = true)
    (hlast : (busTrace s.trace).getLast? = some (dataFrame s.cfg b, .fault)) : p = [b] := by
  rw [Pending, if_neg (by simp [hst]), if_pos herr] at h
  rcases h with ⟨-, hnone⟩ | ⟨b', hok', rfl, hlast'⟩
  · exact absurd hlast (hnone b hok)
  · have hframe : dataFrame s.cfg b' = dataFrame s.cfg b := by simpa [hlast'] using hlast
    rw [dataFrame_inj (length_le_of_chunkOk hv hok') (length_le_of_chunkOk hv hok) hframe]

/-- Settles O53: the account of the chunks along the run, with the faulted chunk pending. -/
theorem faultedDataFrameIsReadButNotSent : Obligations.FaultedDataFrameIsReadButNotSent := by
  intro c e k t b hreach herr hok hlast
  obtain ⟨hi, ⟨p, hdeliv, hpending⟩, hread, hsent, -⟩ :=
    hreach.of_stepCase chunkBooks_boot fun _ _ hi h hc => hc.chunkBooks hi h
  obtain rfl := hreach.cfg_eq
  have hst : t.st = .failed := hi.cause.1.mp (by simp [herr])
  obtain rfl := hpending.eq_of_faulted hi.valid hst herr hok hlast
  rw [addW_mod hsent, hread, hdeliv, totalLength_append]
  simp [totalLength]

end Sys2Proof.Machine

/-! SUPPORT. Peers that never let the session go on (R118): one that is never ready, and one that always answers a NACK. -/

namespace Sys2Proof.Machine

/-! ### A peer that is never ready -/

/-- OP_POLL on the last value of a `ready` list: it is not used up (R78, R102). -/
theorem step_of_poll_last {s : State} {b : Bool} (hv : s.cfg.valid = true) (hr : (hostNow s).reset = false)
    (hst : s.st = .await ∨ s.st = .xfer ∨ s.st = .compl) (hph : s.ph = .wait) (hready : s.env.ready = [b]) :
    step s = .next { s with ph := if b then .issue else .wait, env := s.takeHost.env,
                            trace := s.trace ++ [.ready b] } := by
  have hsample : sampleNow s = b := by simp [sampleNow, hready]
  have hused : s.takeHost.env.usedReady = s.takeHost.env := by simp [Env.usedReady, hready]
  rw [step_of_poll hv hr hst hph, hsample, hused]

/-- Each sample that is `false` leaves the block polling, and every register and buffer as it was. -/
theorem run_of_stuck {k : Nat} {s : State} (hv : s.cfg.valid = true) (hst : s.st = .await ∨ s.st = .xfer ∨ s.st = .compl)
    (hph : s.ph = .wait) (hready : s.env.ready = [false]) (hhost : ∀ x ∈ s.env.host, x.reset = false) :
    ∃ e, Host.Core.run Sys2Proof.core k s = .next { s with
      env := e, trace := s.trace ++ List.replicate k (.ready false) } := by
  induction k generalizing s with
  | zero =>
    rw [List.replicate_zero, List.append_nil]
    exact ⟨s.env, rfl⟩
  | succ k ih =>
    have hstep := step_of_poll_last hv (hostNow_reset_of_forall hhost) hst hph hready
    rw [if_neg Bool.false_ne_true, ← hph] at hstep
    obtain ⟨e, hrun⟩ := ih (s := { s with env := s.takeHost.env, trace := s.trace ++ [.ready false] })
      hv hst hph hready fun x hx => hhost x (List.mem_of_mem_tail hx)
    rw [List.replicate_succ, List.append_cons s.trace]
    exact ⟨e, run_succ_eq_next.mpr ⟨_, hstep, hrun⟩⟩

/-- Samples of readiness are no transactions. -/
theorem busTrace_append_samples (tr : List Event) (k : Nat) (b : Bool) :
    busTrace (tr ++ List.replicate k (.ready b)) = busTrace tr := by
  simp [busTrace]

/-- Settles O59: the run of the samples. -/
theorem stuckPeerHaltsTheSession : Obligations.StuckPeerHaltsTheSession := by
  intro k s hv hst hph hready hhost
  obtain ⟨e, hrun⟩ := run_of_stuck (k := k) hv hst hph hready hhost
  exact ⟨_, hrun, rfl, hph, rfl, busTrace_append_samples _ _ _⟩

/-! ### A peer that always answers a NACK -/

/-- OP_XACT_START on a NACK: the START frame is built again (R103). -/
theorem step_of_nack {s : State} {rb : List Byte} (hv : s.cfg.valid = true) (hr : (hostNow s).reset = false)
    (hst : s.st = .await) (hph : s.ph = .issue) (htx : s.tx = Memory.ofBytes (startFrame s.cfg))
    (hn : busNow s = .ok rb) (hl : rb.length = s.cfg.frameSize) (hnack : rb[s.cfg.ackIndex]? = some 0) :
    step s = .next { s with
      st := .await, ph := .wait, tx := Memory.ofBytes (startFrame s.cfg), rx := Memory.ofBytes rb,
      env := s.takeHost.env.usedBus, trace := s.trace ++ [.transact (startFrame s.cfg) s.cfg.busBits (.ok rb)] } := by
  have hb : readTx s.takeHost = .next (startFrame s.cfg) := readTx_ofBytes htx (length_startFrame hv)
  exact (step_at_await_issue hv hr hst hph).trans (transactStart_of_ok hb hn hl hnack)

/-- The block waits for readiness in the handshake, in front of a peer that is ready, these answers of the bus and a host that
gives no `RESET`. -/
structure Knocking (c : Config) (bus : List BusAnswer) (s : State) : Prop where
  valid : s.cfg.valid = true
  cfg : s.cfg = c
  st : s.st = .await
  ph : s.ph = .wait
  tx : s.tx = Memory.ofBytes (startFrame s.cfg)
  ready : s.env.ready = [true]
  bus : s.env.bus = bus
  host : ∀ x ∈ s.env.host, x.reset = false

/-- A NACK takes two steps back to where the block was, with one START transaction more. -/
theorem Knocking.retry {c : Config} {rb : List Byte} {bus : List BusAnswer} {s : State} (h : Knocking c (.ok rb :: bus) s)
    (hl : rb.length = c.frameSize) (hnack : rb[c.ackIndex]? = some 0) :
    ∃ t, Host.Core.run Sys2Proof.core 2 s = .next t ∧ Knocking c bus t ∧
      busTrace t.trace = busTrace s.trace ++ [(startFrame c, .ok rb)] := by
  obtain ⟨hv, rfl, hst, hph, htx, hready, hbus, hhost⟩ := h
  have hhost' : ∀ x ∈ s.env.host.tail, x.reset = false := fun x hx => hhost x (List.mem_of_mem_tail hx)
  have hpoll := step_of_poll_last hv (hostNow_reset_of_forall hhost) (.inl hst) hph hready
  have hsend := step_of_nack (s := { s with ph := .issue, env := s.takeHost.env, trace := s.trace ++ [.ready true] })
    hv (hostNow_reset_of_forall hhost') hst rfl htx (by simp [busNow, hbus]) hl hnack
  refine ⟨_, run_succ_eq_next.mpr ⟨_, hpoll, run_succ_eq_next.mpr ⟨_, hsend, rfl⟩⟩,
    ⟨hv, rfl, rfl, rfl, rfl, ?_, ?_, ?_⟩, ?_⟩
  · simp [Env.usedBus, hbus, hready]
  · simp [Env.usedBus, hbus]
  · simpa [Env.usedBus, hbus] using fun x hx => hhost' x (List.mem_of_mem_tail hx)
  · simp only [busTrace_append, busTrace_ready, busTrace_transact, List.append_nil]

/-- Each NACK is answered by another START, and the block is where it was (R113). -/
theorem Knocking.retryAll {c : Config} {replies : List (List Byte)} {rest : List BusAnswer} {s : State}
    (h : Knocking c (replies.map .ok ++ rest) s)
    (hnacks : ∀ rb ∈ replies, rb.length = c.frameSize ∧ rb[c.ackIndex]? = some 0) :
    ∃ t, Host.Core.run Sys2Proof.core (2 * replies.length) s = .next t ∧ Knocking c rest t ∧
      busTrace t.trace = busTrace s.trace ++ replies.map fun rb => (startFrame c, .ok rb) := by
  induction replies generalizing s with
  | nil => exact ⟨s, rfl, h, (List.append_nil _).symm⟩
  | cons rb replies ih =>
    obtain ⟨⟨hl, hnack⟩, hrest⟩ := List.forall_mem_cons.mp hnacks
    obtain ⟨u, hrun, hu, hbus⟩ := h.retry hl hnack
    obtain ⟨t, hrun', ht, hbus'⟩ := ih hu hrest
    rw [List.length_cons, Nat.mul_succ, Nat.add_comm]
    exact ⟨t, run_add hrun hrun', ht, by simp [hbus', hbus]⟩

/-- Settles O60: the retries one after the other. -/
theorem nackedHandshakeIsRetriedForEver : Obligations.NackedHandshakeIsRetriedForEver := by
  intro replies rest s hv hst hph htx hready hbus hnacks hhost
  obtain ⟨t, hrun, ht, htrace⟩ := Knocking.retryAll ⟨hv, rfl, hst, hph, htx, hready, hbus, hhost⟩ hnacks
  exact ⟨t, hrun, ht.st, ht.ph, ht.cfg ▸ ht.tx, htrace⟩

end Sys2Proof.Machine

/-! SUPPORT. Failures (R126 to R137): answers outside their contract (R131, R132), the three causes a session fails with, and the
session that has failed. -/

namespace Sys2Proof.Machine

/-! ### An answer outside its contract is refused (R131, R132) -/

@[simp] theorem andThen_refused {α β : Type} (r : Refusal) (f : α → Host.Outcome β Fault Refusal) :
    andThen (.refused r) f = .refused r := rfl

section
variable {s : State}

theorem opOpen_of_not_meets (h : ¬(openNow s).meets s.cfg = true) : opOpen s = .refused .sizeTooLarge := by
  rw [opOpen, srcOpen, if_neg h, andThen_refused]

theorem opRead_of_not_meets {n : Nat} (h : ¬(readNow n s).meets n = true) : opRead n s = .refused .badRead := by
  rw [opRead, srcRead, if_neg h, andThen_refused]

theorem transact_of_not_meets {bytes : List Byte} (hb : readTx s = .next bytes) (h : ¬(busNow s).meets s.cfg = true) :
    transact s = .refused .badReply := by
  rw [transact, hb, andThen_next, if_neg h]

theorem exec_opRequest_of_not_meets (hst : s.st = .idle) (hph : s.ph = .halt) (h : ¬(openNow s).meets s.cfg = true) :
    exec .opRequest s = .refused .sizeTooLarge := by
  change execOpRequest s = _
  rw [execOpRequest, if_pos ((State.isAt_iff ..).mpr ⟨hst, hph⟩), opOpen_of_not_meets h, andThen_refused]

theorem exec_opFetch_of_not_meets (hst : s.st = .xfer) (hph : s.ph = .fetch)
    (h : ¬(readNow s.cfg.chunkCap s).meets s.cfg.chunkCap = true) : exec .opFetch s = .refused .badRead := by
  change execOpFetch s = _
  rw [execOpFetch, if_pos ((State.isAt_iff ..).mpr ⟨hst, hph⟩), opRead_of_not_meets h, andThen_refused]

/-- The three transactions begin with the one bus transaction, and a refusal of it is theirs. -/
theorem transactions_of_refused {r : Refusal} (h : transact s = .refused r) :
    transactStart s = .refused r ∧ transactData s = .refused r ∧ transactEnd s = .refused r := by
  rw [transactStart, transactData, transactEnd, h]
  exact ⟨rfl, rfl, rfl⟩

end

/-- Settles O21: the contract the answer breaks, for each of the three collaborators. -/
theorem answersOutsideTheContractAreRefused : Obligations.AnswersOutsideTheContractAreRefused := by
  intro s n
  refine ⟨fun size ho hsize => ?_, fun count b hr hbad => ?_, fun bytes rb hb hn hl hph => ?_⟩
  · have hmeets : ¬(openNow s).meets s.cfg = true := by simpa [ho, OpenAnswer.meets] using hsize
    refine ⟨?_, fun hst hph => exec_opRequest_of_not_meets hst hph hmeets⟩
    change execOpOpen s = _
    rw [execOpOpen, opOpen_of_not_meets hmeets, andThen_refused]
  · have hmeets : ¬(readNow n s).meets n = true := by
      simp only [hr, ReadAnswer.meets, Bool.and_eq_true, decide_eq_true_eq]
      omega
    refine ⟨?_, fun hcap hst hph => exec_opFetch_of_not_meets hst hph (hcap ▸ hmeets)⟩
    change execOpRead n s = _
    rw [execOpRead, opRead_of_not_meets hmeets, andThen_refused]
  · have hmeets : ¬(busNow s).meets s.cfg = true := by simpa [hn, BusAnswer.meets] using hl
    obtain ⟨hstart, hdata, hend⟩ := transactions_of_refused (transact_of_not_meets hb hmeets)
    exact ⟨fun hst => (exec_opXactStart_of_isAt hph hst).trans hstart,
      fun hst => (exec_opXactData_of_isAt hph hst).trans hdata, fun hst => (exec_opXactEnd_of_isAt hph hst).trans hend⟩

/-! ### A BusFault (R128) -/

/-- The three transactions treat a `BusFault` alike: `Fail(BUS_FAULT)` after it. -/
theorem transactions_of_busFault {s : State} {bytes : List Byte} (hb : readTx s = .next bytes) (hn : busNow s = .fault) :
    transactStart s = .next ((afterTransact s bytes).fail .busFault) ∧
    transactData s = .next ((afterTransact s bytes).fail .busFault) ∧
    transactEnd s = .next ((afterTransact s bytes).fail .busFault) := by
  have htransact : transact s = .next (bytes, .fault, afterTransact s bytes) :=
    transact_eq_next.mpr ⟨bytes, hb, by rw [hn]; rfl, by rw [hn]⟩
  rw [transactStart, transactData, transactEnd, htransact]
  exact ⟨rfl, rfl, rfl⟩

/-- Settles O34: the state after a faulted transaction, in full, then `Fail(BUS_FAULT)`. -/
theorem busFaultFailsTheSession : Obligations.BusFaultFailsTheSession := by
  intro s i bytes hph hb hn hi
  obtain ⟨hstart, hdata, hend⟩ := transactions_of_busFault hb hn
  have hexec : exec i s = .next ((afterTransact s bytes).fail .busFault) := by
    rcases hi with ⟨rfl, hst⟩ | ⟨rfl, hst⟩ | ⟨rfl, hst⟩
    · exact (exec_opXactStart_of_isAt hph hst).trans hstart
    · exact (exec_opXactData_of_isAt hph hst).trans hdata
    · exact (exec_opXactEnd_of_isAt hph hst).trans hend
  rw [State.fail_eq, afterTransact_fault hn] at hexec
  exact ⟨_, hexec, rfl, fun a ha => by simpa [length_drawBytes] using ha, rfl⟩

/-! ### A ReadError (R127) -/

section
variable {s : State} (hv : s.cfg.valid = true) (hr : (hostNow s).reset = false)
include hv hr

/-- The step that reads `ReadError` with the handle held leads to CLOSE in `FAILED`. -/
theorem step_of_readError (hst : s.st = .xfer) (hph : s.ph = .fetch) (hheld : s.handleOpen = true)
    (hread : readNow s.cfg.chunkCap s = .readError) :
    step s = .next { s with st := .failed, ph := .close, err := .readError, env := s.takeHost.env.usedRead,
                            trace := s.trace ++ [.srcRead s.cfg.chunkCap .readError] } := by
  rw [step_eq_exec (i := .opFetch) hv hr (by rw [hst, hph]; rfl) nofun,
    exec_opFetch_of_readError (s := s.takeHost) hst hph hread, State.fail_eq]
  simp only [State.takeHost_handleOpen, hheld, if_true]
  rfl

/-- The step at CLOSE in `FAILED` with the handle held closes the source and halts. -/
theorem step_of_failed_close (hst : s.st = .failed) (hph : s.ph = .close) (hheld : s.handleOpen = true) :
    step s = .next { s with ph := .halt, handleOpen := false, mismatch := decide (s.bytesSent ≠ s.totalSize),
                            env := s.takeHost.env, trace := s.trace ++ [.srcClose] } := by
  rw [step_eq_exec (i := .opClose .failed) hv hr (by rw [hst, hph]; rfl) nofun,
    closeReleasesTheHandleAndFlagsMismatch s.takeHost .failed (.inr rfl) hst hph]
  simp only [State.takeHost_handleOpen, hheld, if_true]
  rfl

end

/-- Settles O35: the read that fails the session, then OP_CLOSE. -/
theorem readErrorFailsTheSessionAndClosesTheSource : Obligations.ReadErrorFailsTheSessionAndClosesTheSource := by
  intro s hi hst hph hread hr hr'
  have hheld : s.handleOpen = true := (hi.openSession (.inr (.inl hst))).held
  have hfetch := step_of_readError hi.valid hr hst hph hheld hread
  refine ⟨_, run_succ_eq_next.mpr ⟨_, hfetch, run_succ_eq_next.mpr ⟨_, step_of_failed_close hi.valid ?_ rfl rfl hheld,
    rfl⟩⟩, ?_⟩
  · rwa [hostNow, Env.usedRead_host]
  · rw [List.append_assoc]
    rfl

/-! ### NOT_FOUND (R126) -/

/-- A session that failed with `NOT_FOUND` consists of the one open that answered so. -/
def OnlyFailedOpen (s : State) : Prop :=
  s.err = .notFound → s.trace = [.srcOpen s.cfg.sourceName .notFound]

/-- Of a session with another cause, or none, it says nothing. -/
theorem OnlyFailedOpen.of_err {s : State} (h : s.err ≠ .notFound) : OnlyFailedOpen s :=
  fun herr => absurd herr h

theorem onlyFailedOpen_boot (c : Config) (e : Env) : OnlyFailedOpen (State.boot c e) :=
  .of_err nofun

/-- Every case of a step keeps it: the open that fails comes first in the history, and no OP_CLOSE follows it (R135). -/
theorem StepCase.onlyFailedOpen {s t : State} (hc : StepCase s t) (hi : RegInv s) (h : OnlyFailedOpen s) :
    OnlyFailedOpen t := by
  cases hc with
  | reset => exact onlyFailedOpen_boot _ _
  | waiting | halted => exact h
  | requestNotFound _ hst =>
    have htrace : s.trace = [] := congrArg State.trace (hi.idle hst)
    intro _
    rw [State.fail_trace, State.fail_cfg, htrace]
    rfl
  | busFault | fetchError => exact .of_err (by simp)
  | requestOk _ hst | startAck _ hst | startNack _ hst | fetchEmpty _ hst | fetchData _ hst | dataLast _ hst
  | dataMore _ hst | endOk _ hst => exact .of_err (by simp [hi.err_eq_none, hst])
  | poll _ hst => exact .of_err (by simp [(hi.openSession hst).err])
  | close _ _ hph => exact .of_err (hi.cause.2 hph)

/-- Settles O23: the registers' invariant and the history of a failed open, along the run. -/
theorem notFoundSessionNeverStarts : Obligations.NotFoundSessionNeverStarts := by
  intro c e k t hreach herr
  obtain ⟨hi, honly⟩ := hreach.of_stepCase onlyFailedOpen_boot fun _ _ hi h hc => hc.onlyFailedOpen hi h
  have hst : t.st = .failed := hi.cause.1.mp (by simp [herr])
  have hnotClose : t.ph ≠ .close := fun hph => hi.cause.2 hph herr
  have hph : t.ph = .halt := by simpa [hst, reachablePoints, hnotClose] using hi.point
  exact ⟨hst, hph, hi.handleOpen_of_halt hph, hreach.cfg_eq ▸ honly herr⟩

/-! ### The session that has failed (R136, R137) -/

/-- Settles O40: in `FAILED` a step without `RESET` halts or is OP_CLOSE. -/
theorem failureIsFinalAndSendsNothing : Obligations.FailureIsFinalAndSendsNothing := by
  intro s t hst hr hstep
  cases (step_next_cases hstep).2 with
  | reset hr' => simp [hr] at hr'
  | halted => exact ⟨hst, rfl, rfl⟩
  | close =>
    refine ⟨hst, rfl, ?_⟩
    cases s.handleOpen with
    | false => simp
    | true => simp [busTrace_append]
  | waiting _ hst' | requestNotFound _ hst' | requestOk _ hst' | poll _ hst' | busFault _ hst' | startAck _ hst'
  | startNack _ hst' | fetchError _ hst' | fetchEmpty _ hst' | fetchData _ hst' | dataLast _ hst' | dataMore _ hst'
  | endOk _ hst' => simp [hst] at hst'

end Sys2Proof.Machine

/-! SUPPORT. The handshake's transaction at its own control point (R103, R157). -/

namespace Sys2Proof.Machine

/-- Settles O26: the transaction that returns `BusOk`, by the byte at `ACK_INDEX`; on a NACK the session state stays. -/
theorem startTransactionJudgesTheAcknowledgeByte : Obligations.StartTransactionJudgesTheAcknowledgeByte := by
  intro s bytes rb ack hst hph hb hn hl hack
  rw [exec_opXactStart_of_isAt hph hst, transactStart_of_ok hb hn hl hack]
  by_cases h0 : ack = 0
  · simp only [if_pos h0, ← hst]
    rfl
  · simp only [if_neg h0]
    rfl

end Sys2Proof.Machine
